-- ==== Sys2Proof/Word.lean ====
section
/-!
DEFINITION. The value types of the block (`00_scope.md` R5, R6): every value is unsigned, there is no signed operation.
-/
namespace Sys2Proof

/-- An 8-bit value: a data register, a timer, a byte of memory (R5 `REG_WIDTH`, `TIMER_WIDTH`). -/
abbrev Byte := BitVec 8

/-- A 16-bit value: an opcode, the program counter, the index register, a stack entry (R5). -/
abbrev Word := BitVec 16

/-- A 12-bit byte address `0x000` to `0xFFF`: all of the memory and nothing else (R5 `MEM_SIZE`, R40). -/
abbrev Addr := BitVec 12

/-- The number of a data register, `V0` to `VF` (R11: an index is always in `0..15`). -/
abbrev RegIdx := Fin 16

/-- A logical key number, `0x0` to `0xF` (R5 `NKEYS`, R21). -/
abbrev Key := Fin 16

end Sys2Proof
end

