-- ==== Sys2Proof/Config.lean ====
section
/-!
DEFINITION. What the spec leaves to an input of the block: the random byte.
-/
namespace Sys2Proof

/-- The values on the input `rnd` (`60_exceptions.md` R220, `42_alu.md` R132, D15): a FREE VALUE under no law. The `k`-th
value is the one that the `k`-th executed `Cxkk` takes; the counter is `State.draws`. It has no body, so every theorem
holds for every sequence of bytes. Log entry 2. -/
opaque Config.randomByte : Nat → Byte

end Sys2Proof
end

