-- ==== Sys2Proof/Machine/Font.lean ====
section
/-!
DEFINITION. The parameter `FONT`, 16 glyphs of 5 bytes, glyph `d` at address `d * 5` (`00_scope.md` R5, `10_state.md` R17): an
argument of the model (D12), and its default, the table of R17, which the spec supplies from general knowledge (G1); log
entry 1.
-/
namespace Sys2Proof.Machine

/-- A value of the parameter `FONT[0..79]` (R5, R17). -/
abbrev Font := Vector Byte 80

/-- Glyphs 0 to 7 of the default. -/
def fontLow : List Byte :=
  [ 0xF0, 0x90, 0x90, 0x90, 0xF0,
    0x20, 0x60, 0x20, 0x20, 0x70,
    0xF0, 0x10, 0xF0, 0x80, 0xF0,
    0xF0, 0x10, 0xF0, 0x10, 0xF0,
    0x90, 0x90, 0xF0, 0x10, 0x10,
    0xF0, 0x80, 0xF0, 0x10, 0xF0,
    0xF0, 0x80, 0xF0, 0x90, 0xF0,
    0xF0, 0x10, 0x20, 0x40, 0x40 ]

/-- Glyphs 8 to F of the default. -/
def fontHigh : List Byte :=
  [ 0xF0, 0x90, 0xF0, 0x90, 0xF0,
    0xF0, 0x90, 0xF0, 0x10, 0xF0,
    0xF0, 0x90, 0xF0, 0x90, 0x90,
    0xE0, 0x90, 0xE0, 0x90, 0xE0,
    0xF0, 0x80, 0x80, 0x80, 0xF0,
    0xE0, 0x90, 0x90, 0x90, 0xE0,
    0xF0, 0x80, 0xF0, 0x80, 0xF0,
    0xF0, 0x80, 0xF0, 0x80, 0x80 ]

/-- The 80 bytes of the default (R17). -/
def defaultFontBytes : List Byte := fontLow ++ fontHigh

/-- `FONT` at its default (R17). -/
def defaultFont : Font := ⟨defaultFontBytes.toArray, rfl⟩

end Sys2Proof.Machine
end

