-- ==== Sys2Proof/Machine/State.lean ====
section
/-!
DEFINITION. The architectural state, `10_state.md`: the tuple of R10, field by field, as plain data, and its reset values,
the table of R32.
-/
namespace Sys2Proof.Machine

/-- Main memory `MEM` (R16) as the cells that differ from the reset contents under the default `FONT`: strictly rising addresses, no cell equal to
what an unlisted address reads as (`Memory.wf`). -/
abbrev Memory := List Host.Cell

/-- The display bitmap `FB` (R20): 32 rows of 64 cells, `true` is set. Row `y`, column `x` is `FB[y][x]`. -/
abbrev Bitmap := Vector (Vector Bool 64) 32

/-- The engine mode `MODE` (R27). -/
inductive Mode where
  /-- The engine steps when offered a slot. -/
  | running
  /-- Entered by `Fx0A` with `r = x`; left only by a key press or by reset. -/
  | waitingForKey (r : RegIdx)
  /-- Entered by a raise; left only by reset. -/
  | faulted
  deriving DecidableEq, Repr

/-- The kinds of terminal fault (R201). -/
inductive FaultKind where
  | fetchFault
  | decodeFault
  | stackUnderflow
  | stackOverflow
  deriving DecidableEq, Repr

/-- The fault record `FAULT` (R28, R202). `addr` is the `pc` at the start of the faulting step. `opcode` is the word
fetched; it is `none` after a `FetchFault`, where R202 gives it no meaning because nothing was fetched (log entry 10). -/
structure FaultRecord where
  kind : FaultKind
  addr : Word
  opcode : Option Word
  deriving DecidableEq, Repr

/-- Stops of the machine outside its own modes. There is none, so the type has no constructor: each of the four faults of
R201 has an entry that R204 describes whole, and is a next state in mode `Faulted` (log entry 15). -/
inductive Fault where
  deriving DecidableEq, Repr

/-- Moves that have no meaning. -/
inductive Refusal where
  /-- Raised by `exec`'s arm of an instruction that has no meaning yet. Safe: nothing can be proved of it. -/
  | notModelled (mnemonic : String)
  /-- Raised by the host move `load` for an image of more than 3584 bytes: not a move the host has (R246, D19, U12). Safe. -/
  | romTooLong (length : Nat)
  /-- Raised by the host move `load` when a slot has come since the last reset: not a move the host has (R53, R246, R252,
  D19). Safe. -/
  | loadNotAfterReset
  deriving DecidableEq, Repr

/-- The complete state of the block (R10), and the counter of random draws, which is the model's own. -/
structure State where
  /-- `MEM`, 4096 bytes (R16). -/
  mem : Memory
  /-- `V[0]` to `V[15]`; `V[15]` is the flag register `VF` (R11, R12). -/
  v : Vector Byte 16
  /-- The index register `I` (R13). -/
  i : Word
  /-- The program counter `PC` (R14). -/
  pc : Word
  /-- The call stack `STACK[0..15]` (R15). Entries at `sp` and above are dead (U10). -/
  stack : Vector Word 16
  /-- `SP`, the number of entries in use, `0..16` (R15). -/
  sp : Fin 17
  /-- The delay timer `DT` (R18). -/
  dt : Byte
  /-- The sound timer `ST` (R19). -/
  st : Byte
  /-- The display bitmap `FB` (R20). -/
  fb : Bitmap
  /-- The key latch `KEYS`, `true` while the key is held (R21). -/
  keys : Vector Bool 16
  /-- The engine mode `MODE` (R27). -/
  mode : Mode
  /-- The fault record `FAULT` (R28); `none` is the spec's "no fault recorded". -/
  fault : Option FaultRecord
  /-- The model's own: how many values of the input `rnd` have been used (log entry 2). -/
  draws : Nat
  deriving DecidableEq, Repr

/-- The state right after reset, the table of R32, of the block whose parameter `FONT` has its default value. Memory lists
nothing: an unlisted address reads as its reset contents. For any `FONT` the state is `State.resetWith`. -/
def State.reset : State where
  mem := []
  v := Vector.replicate 16 0x00
  i := 0x0000
  pc := 0x0200
  stack := Vector.replicate 16 0x0000
  sp := 0
  dt := 0x00
  st := 0x00
  fb := Vector.replicate 32 (Vector.replicate 64 false)
  keys := Vector.replicate 16 false
  mode := .running
  fault := none
  draws := 0

end Sys2Proof.Machine
end

