-- ==== Sys2Proof/Machine/Ops.lean ====
section
/-!
DEFINITION. The named operations over memory, registers, the stack and the program counter; the timer tick R215; and
taking a fault, R204. Every instruction's meaning is written over these.
-/
namespace Sys2Proof.Machine

/-! ## Memory (`20_memory.md`) -/

/-- What an address that is not listed reads as: the reset contents of memory with `FONT` at its default, the glyphs at
`0x000..0x04F` and zero above (R16, R32). A block with another `FONT` lists the bytes that differ (`Memory.ofFont`). -/
def Memory.unlisted (a : Nat) : Byte :=
  if a < 80 then defaultFontBytes.getD a 0x00 else 0x00

/-- The byte at an address (R40). -/
def Memory.read : Memory → Nat → Byte
  | [], a => Memory.unlisted a
  | (k, b) :: m, a => if k = a then b else Memory.read m a

/-- The cells at other addresses. -/
def Memory.eraseCell (m : Memory) (a : Nat) : Memory :=
  m.filter fun c => c.1 != a

/-- Put a cell before the first cell of a higher address. -/
def Memory.insertCell : Memory → Nat → Byte → Memory
  | [], a, b => [(a, b)]
  | (k, c) :: m, a, b => if a < k then (a, b) :: (k, c) :: m else (k, c) :: Memory.insertCell m a b

/-- Write one byte (R40), in canonical form: a cell that would hold its reset contents is not listed. -/
def Memory.write (m : Memory) (a : Nat) (b : Byte) : Memory :=
  if b = Memory.unlisted a then m.eraseCell a else (m.eraseCell a).insertCell a b

/-- The canonical form of memory: addresses strictly rising and inside `0x000..0xFFF`, no cell equal to what an unlisted
address reads as. -/
abbrev Memory.wf (m : Memory) : Prop :=
  m.Pairwise (fun c d => c.1 < d.1) ∧ ∀ c ∈ m, c.1 < 4096 ∧ c.2 ≠ Memory.unlisted c.1

/-- `MemRead(a, 1)` (R7, R40). -/
def State.memRead (s : State) (a : Addr) : Byte := s.mem.read a.toNat

/-- `MemWrite(a, 1, b)` (R7, R40). Nothing is protected (R47) and no write has a side effect (R54). -/
def State.memWrite (s : State) (a : Addr) (b : Byte) : State :=
  { s with mem := s.mem.write a.toNat b }

/-! ## Data registers (R11, R12) -/

/-- `V[r]`. No register is hard-wired. -/
def State.reg (s : State) (r : RegIdx) : Byte := s.v.get r

/-- `V[r] <- b`. -/
def State.setReg (s : State) (r : RegIdx) (b : Byte) : State :=
  { s with v := s.v.set r.val b r.isLt }

/-- The number of the flag register `VF` (R12). -/
def flagReg : RegIdx := 15

/-! ## Program counter (R14) and index register (R13) -/

/-- `pc <- target`. -/
def State.jump (s : State) (target : Word) : State := { s with pc := target }

/-- `pc <- (pc + 2) mod 65536`: the increment of a fetch (R82), and a taken skip (R105). -/
def State.advancePc (s : State) : State := s.jump (s.pc + 2)

/-- `if c: pc <- (pc + 2) mod 65536`, the effect of the six compare-and-skip instructions (R105 to R108, R171, R172). -/
def State.skipIf (s : State) (c : Bool) : State := if c then s.advancePc else s

/-- `I <- w`, all 16 bits (R13). -/
def State.setIndex (s : State) (w : Word) : State := { s with i := w }

/-! ## Timers (R18, R19, R215) -/

/-- One countdown: down by 1 if above 0, else held at 0; never wraps (R215). -/
def countDown (b : Byte) : Byte := if b = 0x00 then 0x00 else b - 1

/-- `TimerTick()` (R215). -/
def State.timerTick (s : State) : State :=
  { s with dt := countDown s.dt, st := countDown s.st }

/-- `DT <- b`. -/
def State.setDelay (s : State) (b : Byte) : State := { s with dt := b }

/-- `ST <- b`. -/
def State.setSound (s : State) (b : Byte) : State := { s with st := b }

/-- The pre-state of an instruction, at the start of phase 6: the pc is incremented (R82) and the timers have ticked
(R85, D2). All operands are read from it (R88). -/
def State.preState (s : State) : State := s.advancePc.timerTick

/-! ## Call stack (R15) -/

/-- The stack and its count. -/
def State.setStack (s : State) (stack : Vector Word 16) (sp : Fin 17) : State := { s with stack := stack, sp := sp }

/-- `STACK[SP] <- w; SP <- SP + 1`; nothing when 16 entries are in use. -/
def State.push? (s : State) (w : Word) : Option State :=
  if h : s.sp.val < 16 then
    some (s.setStack (s.stack.set s.sp.val w h) ⟨s.sp.val + 1, by omega⟩)
  else none

/-- `SP <- SP - 1` and the entry `STACK[SP]`; nothing when the stack is empty. The entry stays as a dead value (R101). -/
def State.pop? (s : State) : Option (Word × State) :=
  if h : 0 < s.sp.val then
    some (s.stack[s.sp.val - 1]'(by omega), s.setStack s.stack ⟨s.sp.val - 1, by omega⟩)
  else none

/-! ## Engine mode and faults (R27, R28, R204) -/

/-- `MODE <- m`. -/
def State.setMode (s : State) (m : Mode) : State := { s with mode := m }

/-- `raise kind(addr, opcode)`: fault entry, R204. The mode becomes `Faulted`, the record is written, nothing else
changes; the pc stays what the step had made it. There is no handler to go to and no return: only reset leaves the mode
(R205). -/
def State.raise (s : State) (kind : FaultKind) (addr : Word) (opcode : Option Word) : State :=
  { s with mode := .faulted, fault := some ⟨kind, addr, opcode⟩ }

/-! ## Random input (R220) -/

/-- Use one value of the input `rnd`: the counter moves on, so that the next use is another free value (log entry 2). -/
def State.countDraw (s : State) : State := { s with draws := s.draws + 1 }

end Sys2Proof.Machine
end

