-- ==== Sys2Proof/Machine/Flags.lean ====
section
/-!
DEFINITION. The flag computations, `10_state.md` R12, `42_alu.md` R127 to R131, R133: every flag is `0x00` or `0x01`, computed
on unbounded integers, and written before the result (R88).
-/
namespace Sys2Proof.Machine

/-- A flag value (R12). -/
def flagByte (c : Bool) : Byte := if c then 0x01 else 0x00

/-- `8xy4`: `1 if vx + vy > 255 else 0` (R127). -/
def carryFlag (vx vy : Byte) : Byte := flagByte (vx.toNat + vy.toNat > 255)

/-- `8xy5`: `1 if vx > vy else 0`, strictly (R128). -/
def greaterFlag (vx vy : Byte) : Byte := flagByte (vx.toNat > vy.toNat)

/-- `8xy7`: `0 if vx > vy else 1` (R130). -/
def notGreaterFlag (vx vy : Byte) : Byte := flagByte (!(vx.toNat > vy.toNat))

/-- `8xy6`: `vx[0]`, the bit shifted out (R129). -/
def lowBitFlag (vx : Byte) : Byte := flagByte (vx.getLsbD 0)

/-- `8xyE`: `vx[7]`, the bit shifted out (R131). -/
def highBitFlag (vx : Byte) : Byte := flagByte (vx.getLsbD 7)

/-- `V[0xF] <- flag; V[x] <- result`, in this order: with `x = 0xF` the result stands (R88, D9). -/
def State.writeFlagThenResult (s : State) (x : RegIdx) (flag result : Byte) : State :=
  (s.setReg flagReg flag).setReg x result

end Sys2Proof.Machine
end

