-- ==== Sys2Proof/Machine/Operands.lean ====
section
/-!
DEFINITION. The operand forms: zero-extended immediates R63, the data effective address R43, register ranges R145 and
R146, the key test R170, decimal digits R144, the glyph address R143.
-/
namespace Sys2Proof.Machine

/-- `zext_16` of a 12-bit address (R63). -/
def zextAddr (nnn : Addr) : Word := nnn.setWidth 16

/-- `zext_16` of a byte (R63, R104, R142). -/
def zextByte (b : Byte) : Word := b.setWidth 16

/-- `zext_8` of a key number (R210). -/
def keyByte (k : Key) : Byte := BitVec.ofNat 8 k.val

/-- `EA(k) = (I + k) mod 4096` (R43, D8). -/
def State.ea (s : State) (k : Nat) : Addr := BitVec.ofNat 12 (s.i.toNat + k)

/-- The register numbers `0..x` in ascending order (R145, R146). -/
def regsUpTo (x : RegIdx) : List RegIdx := (List.finRange 16).filter fun k => k ≤ x

/-- `Pressed(c) = (c <= 0x0F) and KEYS[c] = 1`, for an 8-bit code `c` (R170, D10). -/
def State.pressed (s : State) (c : Byte) : Bool :=
  if h : c.toNat < 16 then s.keys[c.toNat] else false

/-- The hundreds digit of a byte, `v / 100` (R144). -/
def hundreds (b : Byte) : Byte := BitVec.ofNat 8 (b.toNat / 100)

/-- The tens digit of a byte, `(v / 10) mod 10` (R144). -/
def tens (b : Byte) : Byte := BitVec.ofNat 8 (b.toNat / 10 % 10)

/-- The units digit of a byte, `v mod 10` (R144). -/
def units (b : Byte) : Byte := BitVec.ofNat 8 (b.toNat % 10)

/-- `vx * 5`, the base address of a glyph; the whole byte is multiplied (R143). -/
def glyphAddress (b : Byte) : Word := BitVec.ofNat 16 (b.toNat * 5)

/-- The bytes of a sprite: `MemRead((base + row) mod 4096, 1)` for `row = 0..n-1` (R163). -/
def State.spriteBytes (s : State) (n : Nat) : List Byte := (List.range n).map fun row => s.memRead (s.ea row)

/-- Store `V[k]` at `EA(k)` for each `k` of a list, in its order (R145). -/
def State.storeRegs (s : State) : List RegIdx → State
  | [] => s
  | k :: ks => State.storeRegs (s.memWrite (s.ea k.val) (s.reg k)) ks

/-- Load `V[k]` from `EA(k)` for each `k` of a list, in its order (R146). -/
def State.loadRegs (s : State) : List RegIdx → State
  | [] => s
  | k :: ks => State.loadRegs (s.setReg k (s.memRead (s.ea k.val))) ks

end Sys2Proof.Machine
end

