-- ==== Sys2Proof/Machine/Alu.lean ====
section
/-!
DEFINITION. Register load, arithmetic, logic, shift and random, `42_alu.md` R120 to R133. Operands are read from the
pre-state, then the writes follow in the order of the rule (R88).
-/
namespace Sys2Proof.Machine

/-- `6xkk`, load immediate (R121). -/
def execLdVxKk (x : RegIdx) (kk : Byte) (s : State) : Host.Outcome State Fault Refusal :=
  .next (s.preState.setReg x kk)

/-- `7xkk`, add immediate, no flag (R122). -/
def execAddVxKk (x : RegIdx) (kk : Byte) (s : State) : Host.Outcome State Fault Refusal :=
  let t := s.preState
  .next (t.setReg x (t.reg x + kk))

/-- `8xy0`, register copy (R123). -/
def execLdVxVy (x y : RegIdx) (s : State) : Host.Outcome State Fault Refusal :=
  let t := s.preState
  .next (t.setReg x (t.reg y))

/-- `8xy1`, bitwise OR; `VF` is not cleared (R124). -/
def execOrVxVy (x y : RegIdx) (s : State) : Host.Outcome State Fault Refusal :=
  let t := s.preState
  .next (t.setReg x (t.reg x ||| t.reg y))

/-- `8xy2`, bitwise AND (R125). -/
def execAndVxVy (x y : RegIdx) (s : State) : Host.Outcome State Fault Refusal :=
  let t := s.preState
  .next (t.setReg x (t.reg x &&& t.reg y))

/-- `8xy3`, bitwise exclusive OR (R126). -/
def execXorVxVy (x y : RegIdx) (s : State) : Host.Outcome State Fault Refusal :=
  let t := s.preState
  .next (t.setReg x (t.reg x ^^^ t.reg y))

/-- `8xy4`, add with carry flag (R127). -/
def execAddVxVy (x y : RegIdx) (s : State) : Host.Outcome State Fault Refusal :=
  let t := s.preState
  .next (t.writeFlagThenResult x (carryFlag (t.reg x) (t.reg y)) (t.reg x + t.reg y))

/-- `8xy5`, subtract, flag strictly greater (R128). -/
def execSubVxVy (x y : RegIdx) (s : State) : Host.Outcome State Fault Refusal :=
  let t := s.preState
  .next (t.writeFlagThenResult x (greaterFlag (t.reg x) (t.reg y)) (t.reg x - t.reg y))

/-- `8xy6`, logical shift right by one; the field `y` is ignored (R129, R67). -/
def execShrVx (x _y : RegIdx) (s : State) : Host.Outcome State Fault Refusal :=
  let t := s.preState
  .next (t.writeFlagThenResult x (lowBitFlag (t.reg x)) (t.reg x >>> 1))

/-- `8xy7`, reverse subtract, flag not strictly greater (R130). -/
def execSubnVxVy (x y : RegIdx) (s : State) : Host.Outcome State Fault Refusal :=
  let t := s.preState
  .next (t.writeFlagThenResult x (notGreaterFlag (t.reg x) (t.reg y)) (t.reg y - t.reg x))

/-- `8xyE`, shift left by one; the field `y` is ignored (R131, R67). -/
def execShlVx (x _y : RegIdx) (s : State) : Host.Outcome State Fault Refusal :=
  let t := s.preState
  .next (t.writeFlagThenResult x (highBitFlag (t.reg x)) (t.reg x <<< 1))

/-- `Cxkk`, masked random byte: `rnd & kk` with `rnd` a free value (R132, R220, D15). -/
def execRndVxKk (x : RegIdx) (kk : Byte) (s : State) : Host.Outcome State Fault Refusal :=
  let t := s.preState
  .next ((t.setReg x (Config.randomByte t.draws &&& kk)).countDraw)

end Sys2Proof.Machine
end

