-- ==== Sys2Proof/Machine/Bitmap.lean ====
section
/-!
DEFINITION. The display bitmap controller, `44_display.md`: `clear` R161, `SetPixel` R162, and the XOR composition of a
sprite R163. Bit 7 of a sprite byte is its leftmost pixel and byte `k` goes to row `Vy + k` (D11, log entry 14).
-/
namespace Sys2Proof.Machine

/-- All 2048 cells 0 (R161). -/
def clearBitmap : Bitmap := Vector.replicate 32 (Vector.replicate 64 false)

/-- `FB[py][px]`. -/
def Bitmap.cell (fb : Bitmap) (py : Fin 32) (px : Fin 64) : Bool := (fb.get py).get px

/-- `FB[py][px] <- b`. -/
def Bitmap.setCell (fb : Bitmap) (py : Fin 32) (px : Fin 64) (b : Bool) : Bitmap :=
  fb.set py.val ((fb.get py).set px.val b px.isLt) py.isLt

/-- The column of a coordinate, `cx mod 64` (R162). -/
def column (cx : Nat) : Fin 64 := ⟨cx % 64, Nat.mod_lt cx (by decide)⟩

/-- The row of a coordinate, `cy mod 32` (R162). -/
def row (cy : Nat) : Fin 32 := ⟨cy % 32, Nat.mod_lt cy (by decide)⟩

/-- `SetPixel(cx, cy)`: toggle the cell, and say whether it became unset (R162). -/
def setPixel (fb : Bitmap) (cx cy : Nat) : Bitmap × Bool :=
  let old := fb.cell (row cy) (column cx)
  (fb.setCell (row cy) (column cx) (!old), old)

/-- Draw the pixels of one sprite byte at the listed columns `col`, with `b[7 - col]` the pixel of column `cx + col`
(R163); the second part says whether a cell became unset. -/
def drawColumns (fb : Bitmap) (cx cy : Nat) (b : Byte) : List Nat → Bitmap × Bool
  | [] => (fb, false)
  | col :: cols =>
    if b.getLsbD (7 - col) then
      let p := setPixel fb (cx + col) cy
      let q := drawColumns p.1 cx cy b cols
      (q.1, p.2 || q.2)
    else drawColumns fb cx cy b cols

/-- One row of a sprite: columns 0 to 7 (R163). -/
def drawRow (fb : Bitmap) (cx cy : Nat) (b : Byte) : Bitmap × Bool :=
  drawColumns fb cx cy b [0, 1, 2, 3, 4, 5, 6, 7]

/-- The rows of a sprite, successive bytes to successively higher `y` (R163). -/
def drawSprite (fb : Bitmap) (cx cy : Nat) : List Byte → Bitmap × Bool
  | [] => (fb, false)
  | b :: bs =>
    let p := drawRow fb cx cy b
    let q := drawSprite p.1 cx (cy + 1) bs
    (q.1, p.2 || q.2)

/-- `FB <- fb`. -/
def State.setBitmap (s : State) (fb : Bitmap) : State := { s with fb := fb }

end Sys2Proof.Machine
end

