-- ==== Sys2Proof/Machine/Display.lean ====
section
/-!
DEFINITION. The display instructions, `44_display.md` R160, R161, R163. Neither can fault.
-/
namespace Sys2Proof.Machine

/-- `00E0`, clear display; `VF` is not written (R161). -/
def execCls (s : State) : Host.Outcome State Fault Refusal :=
  .next (s.preState.setBitmap clearBitmap)

/-- `Dxyn`, draw sprite (R163): the coordinates and the sprite are read from the pre-state; `VF` ends as 1 if a cell became
unset, else as 0, whatever it was before. -/
def execDrwVxVyN (x y : RegIdx) (n : Nat) (s : State) : Host.Outcome State Fault Refusal :=
  let t := s.preState
  let drawn := drawSprite t.fb (t.reg x).toNat (t.reg y).toNat (t.spriteBytes n)
  .next ((t.setBitmap drawn.1).setReg flagReg (flagByte drawn.2))

end Sys2Proof.Machine
end

