-- ==== Sys2Proof/Syntax.lean ====
section
/-!
DEFINITION. The instructions: one constructor for each of the 34 rows of the opcode map, `30_encoding.md` R66, in the
order of that table. Operands are the fields of R61.
-/
namespace Sys2Proof

/-- The 34 instructions of R66. `x` and `y` select data registers, `kk` is the immediate byte, `nnn` the 12-bit address,
`n` the number of sprite bytes. The two shifts keep the field `y` that they ignore (R67), so that the opcode word of an
instruction can be recovered. -/
inductive Instr where
  | cls                                  -- 00E0
  | ret                                  -- 00EE
  | jp (nnn : Addr)                      -- 1nnn
  | call (nnn : Addr)                    -- 2nnn
  | seVxKk (x : RegIdx) (kk : Byte)      -- 3xkk
  | sneVxKk (x : RegIdx) (kk : Byte)     -- 4xkk
  | seVxVy (x y : RegIdx)                -- 5xy0
  | ldVxKk (x : RegIdx) (kk : Byte)      -- 6xkk
  | addVxKk (x : RegIdx) (kk : Byte)     -- 7xkk
  | ldVxVy (x y : RegIdx)                -- 8xy0
  | orVxVy (x y : RegIdx)                -- 8xy1
  | andVxVy (x y : RegIdx)               -- 8xy2
  | xorVxVy (x y : RegIdx)               -- 8xy3
  | addVxVy (x y : RegIdx)               -- 8xy4
  | subVxVy (x y : RegIdx)               -- 8xy5
  | shrVx (x y : RegIdx)                 -- 8xy6
  | subnVxVy (x y : RegIdx)              -- 8xy7
  | shlVx (x y : RegIdx)                 -- 8xyE
  | sneVxVy (x y : RegIdx)               -- 9xy0
  | ldINnn (nnn : Addr)                  -- Annn
  | jpV0Nnn (nnn : Addr)                 -- Bnnn
  | rndVxKk (x : RegIdx) (kk : Byte)     -- Cxkk
  | drwVxVyN (x y : RegIdx) (n : Nat)    -- Dxyn
  | skpVx (x : RegIdx)                   -- Ex9E
  | sknpVx (x : RegIdx)                  -- ExA1
  | ldVxDt (x : RegIdx)                  -- Fx07
  | ldVxK (x : RegIdx)                   -- Fx0A
  | ldDtVx (x : RegIdx)                  -- Fx15
  | ldStVx (x : RegIdx)                  -- Fx18
  | addIVx (x : RegIdx)                  -- Fx1E
  | ldFVx (x : RegIdx)                   -- Fx29
  | ldBVx (x : RegIdx)                   -- Fx33
  | ldIndVx (x : RegIdx)                 -- Fx55
  | ldVxInd (x : RegIdx)                 -- Fx65
  deriving DecidableEq, Repr

end Sys2Proof
end

