-- ==== Sys2Proof/WellFormed.lean ====
section
/-!
DEFINITION. Which terms stand for something the hardware has. Register numbers, bytes and addresses are bounded by their
types; the two checks left are the sprite height, a count, and the length of a program image.
-/
namespace Sys2Proof

/-- The sprite height `n` of `Dxyn` is a 4-bit count, `0..15` (R61, R63). -/
def spriteHeightOk (n : Nat) : Bool := n < 16

/-- An instruction whose operands its encoding can hold (R63). -/
def Instr.wellFormed : Instr → Bool
  | .drwVxVyN _ _ n => spriteHeightOk n
  | .cls | .ret => true
  | .jp _ | .call _ | .ldINnn _ | .jpV0Nnn _ => true
  | .seVxKk _ _ | .sneVxKk _ _ | .ldVxKk _ _ | .addVxKk _ _ | .rndVxKk _ _ => true
  | .seVxVy _ _ | .sneVxVy _ _ | .ldVxVy _ _ | .orVxVy _ _ | .andVxVy _ _ | .xorVxVy _ _ => true
  | .addVxVy _ _ | .subVxVy _ _ | .shrVx _ _ | .subnVxVy _ _ | .shlVx _ _ => true
  | .skpVx _ | .sknpVx _ | .ldVxDt _ | .ldVxK _ | .ldDtVx _ | .ldStVx _ => true
  | .addIVx _ | .ldFVx _ | .ldBVx _ | .ldIndVx _ | .ldVxInd _ => true

/-- The longest program image: from `0x200` to the end of memory (R246: `L` is at most `4096 - 512 = 3584`). -/
def maxRomLength : Nat := 3584

/-- A program image that `load` accepts (R246, D19). -/
def romFits (bytes : List Byte) : Bool := bytes.length ≤ maxRomLength

end Sys2Proof
end

