-- ==== Sys2Proof/Decode.lean ====
section
/-!
DEFINITION. Encoding, `30_encoding.md`: the fields R61, the dispatch R64 with exact match R65, the opcode map R66, the
illegal words R68, the byte order R41; and the encoder written from the same tables.
-/
namespace Sys2Proof

/-! ## Fields of an opcode (R61) -/

/-- `h = op[15:12]`, the high nibble. -/
def fieldH (op : Word) : Nat := (op.extractLsb' 12 4).toNat

/-- `x = op[11:8]`. -/
def fieldX (op : Word) : RegIdx := (op.extractLsb' 8 4).toFin

/-- `y = op[7:4]`. -/
def fieldY (op : Word) : RegIdx := (op.extractLsb' 4 4).toFin

/-- `n = op[3:0]`, as a count. -/
def fieldN (op : Word) : Nat := (op.extractLsb' 0 4).toNat

/-- `kk = op[7:0]`. -/
def fieldKk (op : Word) : Byte := op.extractLsb' 0 8

/-- `nnn = op[11:0]`. -/
def fieldNnn (op : Word) : Addr := op.extractLsb' 0 12

/-! ## Decoding (R64, R65, R68) -/

/-- The classes of illegal words, the rows of the table of R68. -/
inductive IllegalClass where
  /-- `0nnn` other than `0x00E0` and `0x00EE`. -/
  | zeroFamily
  /-- `5xyn` with `n` not 0. -/
  | fiveFamily
  /-- `8xyn` with `n` in 8, 9, A, B, C, D, F. -/
  | eightFamily
  /-- `9xyn` with `n` not 0. -/
  | nineFamily
  /-- `Exkk` with `kk` not 9E or A1. -/
  | keyFamily
  /-- `Fxkk` with `kk` not one of the nine. -/
  | miscFamily
  /-- Not a whole word: fewer than two bytes were given to `decode`. No step meets this, a fetch gives two bytes. -/
  | truncated
  deriving DecidableEq, Repr

/-- What the dispatch multiplexer answers: an instruction, or a rejection by name. -/
inductive Decoded where
  | instr (i : Instr)
  | illegal (c : IllegalClass)
  deriving DecidableEq, Repr

/-- The instruction, if there is one. -/
def Decoded.toOption : Decoded → Option Instr
  | .instr i => some i
  | .illegal _ => none

/-- High nibble 0 (R64): only the two whole words match. -/
def decodeZero (op : Word) : Decoded :=
  if op = 0x00E0#16 then .instr .cls
  else if op = 0x00EE#16 then .instr .ret
  else .illegal .zeroFamily

/-- High nibble 8 (R64): the low nibble selects. -/
def decodeEight (op : Word) : Decoded :=
  match fieldN op with
  | 0x0 => .instr (.ldVxVy (fieldX op) (fieldY op))
  | 0x1 => .instr (.orVxVy (fieldX op) (fieldY op))
  | 0x2 => .instr (.andVxVy (fieldX op) (fieldY op))
  | 0x3 => .instr (.xorVxVy (fieldX op) (fieldY op))
  | 0x4 => .instr (.addVxVy (fieldX op) (fieldY op))
  | 0x5 => .instr (.subVxVy (fieldX op) (fieldY op))
  | 0x6 => .instr (.shrVx (fieldX op) (fieldY op))
  | 0x7 => .instr (.subnVxVy (fieldX op) (fieldY op))
  | 0xE => .instr (.shlVx (fieldX op) (fieldY op))
  | _ => .illegal .eightFamily

/-- High nibble E (R64): the low byte selects. -/
def decodeKey (op : Word) : Decoded :=
  match (fieldKk op).toNat with
  | 0x9E => .instr (.skpVx (fieldX op))
  | 0xA1 => .instr (.sknpVx (fieldX op))
  | _ => .illegal .keyFamily

/-- High nibble F (R64): the low byte selects. -/
def decodeMisc (op : Word) : Decoded :=
  match (fieldKk op).toNat with
  | 0x07 => .instr (.ldVxDt (fieldX op))
  | 0x0A => .instr (.ldVxK (fieldX op))
  | 0x15 => .instr (.ldDtVx (fieldX op))
  | 0x18 => .instr (.ldStVx (fieldX op))
  | 0x1E => .instr (.addIVx (fieldX op))
  | 0x29 => .instr (.ldFVx (fieldX op))
  | 0x33 => .instr (.ldBVx (fieldX op))
  | 0x55 => .instr (.ldIndVx (fieldX op))
  | 0x65 => .instr (.ldVxInd (fieldX op))
  | _ => .illegal .miscFamily

/-- `Decode(op)` of R64, with exact match (R65): a function of the 16 bits alone (R60), total on all 65536 words. The last
arm is high nibble F: no other value is left. -/
def decodeWord (op : Word) : Decoded :=
  match fieldH op with
  | 0x0 => decodeZero op
  | 0x1 => .instr (.jp (fieldNnn op))
  | 0x2 => .instr (.call (fieldNnn op))
  | 0x3 => .instr (.seVxKk (fieldX op) (fieldKk op))
  | 0x4 => .instr (.sneVxKk (fieldX op) (fieldKk op))
  | 0x5 => if fieldN op = 0 then .instr (.seVxVy (fieldX op) (fieldY op)) else .illegal .fiveFamily
  | 0x6 => .instr (.ldVxKk (fieldX op) (fieldKk op))
  | 0x7 => .instr (.addVxKk (fieldX op) (fieldKk op))
  | 0x8 => decodeEight op
  | 0x9 => if fieldN op = 0 then .instr (.sneVxVy (fieldX op) (fieldY op)) else .illegal .nineFamily
  | 0xA => .instr (.ldINnn (fieldNnn op))
  | 0xB => .instr (.jpV0Nnn (fieldNnn op))
  | 0xC => .instr (.rndVxKk (fieldX op) (fieldKk op))
  | 0xD => .instr (.drwVxVyN (fieldX op) (fieldY op) (fieldN op))
  | 0xE => decodeKey op
  | _ => decodeMisc op

/-! ## Byte order (R41) -/

/-- The word of two consecutive bytes, the one at the lower address high: `(hi << 8) | lo` (R41). -/
def wordOfBytes (hi lo : Byte) : Word := hi ++ lo

/-- The byte of a word at the lower address (R41). -/
def highByte (w : Word) : Byte := w.extractLsb' 8 8

/-- The byte of a word at the higher address (R41). -/
def lowByte (w : Word) : Byte := w.extractLsb' 0 8

/-- Decode the first instruction of a byte stream, and the bytes after it. -/
def decode : List Byte → Decoded × List Byte
  | hi :: lo :: rest => (decodeWord (wordOfBytes hi lo), rest)
  | short => (.illegal .truncated, short)

/-- What the decoder reads from the word `w` of `spec/opcode_table.json`, of which the low `nbits` bits are given: the
word is laid out as the hardware stores it, high byte first (R41), and given to `decode`. -/
def decodeTableWord (nbits w : Nat) : Option Instr :=
  let op : Word := BitVec.ofNat 16 (w % 2 ^ nbits)
  (decode [highByte op, lowByte op]).1.toOption

/-! ## Encoding (R62, R66) -/

/-- Format `F_NNN`: `hnnn`. -/
def formNnn (h : BitVec 4) (nnn : Addr) : Word := h ++ nnn

/-- Format `F_XKK`: `hxkk`. -/
def formXkk (h : BitVec 4) (x : RegIdx) (kk : Byte) : Word := h ++ (BitVec.ofFin x : BitVec 4) ++ kk

/-- Formats `F_XYS` and `F_XYN`: `hxys`, `hxyn`. -/
def formXyn (h : BitVec 4) (x y : RegIdx) (n : BitVec 4) : Word :=
  h ++ (BitVec.ofFin x : BitVec 4) ++ (BitVec.ofFin y : BitVec 4) ++ n

/-- The opcode word of an instruction, from the match column of R66 and the formats of R62. -/
def encode : Instr → Word
  | .cls => 0x00E0#16
  | .ret => 0x00EE#16
  | .jp nnn => formNnn 0x1 nnn
  | .call nnn => formNnn 0x2 nnn
  | .seVxKk x kk => formXkk 0x3 x kk
  | .sneVxKk x kk => formXkk 0x4 x kk
  | .seVxVy x y => formXyn 0x5 x y 0x0
  | .ldVxKk x kk => formXkk 0x6 x kk
  | .addVxKk x kk => formXkk 0x7 x kk
  | .ldVxVy x y => formXyn 0x8 x y 0x0
  | .orVxVy x y => formXyn 0x8 x y 0x1
  | .andVxVy x y => formXyn 0x8 x y 0x2
  | .xorVxVy x y => formXyn 0x8 x y 0x3
  | .addVxVy x y => formXyn 0x8 x y 0x4
  | .subVxVy x y => formXyn 0x8 x y 0x5
  | .shrVx x y => formXyn 0x8 x y 0x6
  | .subnVxVy x y => formXyn 0x8 x y 0x7
  | .shlVx x y => formXyn 0x8 x y 0xE
  | .sneVxVy x y => formXyn 0x9 x y 0x0
  | .ldINnn nnn => formNnn 0xA nnn
  | .jpV0Nnn nnn => formNnn 0xB nnn
  | .rndVxKk x kk => formXkk 0xC x kk
  | .drwVxVyN x y n => formXyn 0xD x y (BitVec.ofNat 4 n)
  | .skpVx x => formXkk 0xE x 0x9E
  | .sknpVx x => formXkk 0xE x 0xA1
  | .ldVxDt x => formXkk 0xF x 0x07
  | .ldVxK x => formXkk 0xF x 0x0A
  | .ldDtVx x => formXkk 0xF x 0x15
  | .ldStVx x => formXkk 0xF x 0x18
  | .addIVx x => formXkk 0xF x 0x1E
  | .ldFVx x => formXkk 0xF x 0x29
  | .ldBVx x => formXkk 0xF x 0x33
  | .ldIndVx x => formXkk 0xF x 0x55
  | .ldVxInd x => formXkk 0xF x 0x65

/-- The bytes of an instruction as memory holds them (R41). -/
def encodeBytes (i : Instr) : List Byte := [highByte (encode i), lowByte (encode i)]

/-! ## The opcode map (R66) -/

/-- A row of R66: an opcode `op` is the instruction iff `op & mask = matched`. -/
structure OpcodeRow where
  mnemonic : String
  matched : Word
  mask : Word
  deriving DecidableEq, Repr

/-- Rows 1 to 9 of R66. -/
def opcodeRowsA : List OpcodeRow :=
  [ ⟨"CLS", 0x00E0, 0xFFFF⟩, ⟨"RET", 0x00EE, 0xFFFF⟩, ⟨"JP", 0x1000, 0xF000⟩, ⟨"CALL", 0x2000, 0xF000⟩,
    ⟨"SE_VX_KK", 0x3000, 0xF000⟩, ⟨"SNE_VX_KK", 0x4000, 0xF000⟩, ⟨"SE_VX_VY", 0x5000, 0xF00F⟩,
    ⟨"LD_VX_KK", 0x6000, 0xF000⟩, ⟨"ADD_VX_KK", 0x7000, 0xF000⟩ ]

/-- Rows 10 to 18 of R66. -/
def opcodeRowsB : List OpcodeRow :=
  [ ⟨"LD_VX_VY", 0x8000, 0xF00F⟩, ⟨"OR_VX_VY", 0x8001, 0xF00F⟩, ⟨"AND_VX_VY", 0x8002, 0xF00F⟩,
    ⟨"XOR_VX_VY", 0x8003, 0xF00F⟩, ⟨"ADD_VX_VY", 0x8004, 0xF00F⟩, ⟨"SUB_VX_VY", 0x8005, 0xF00F⟩,
    ⟨"SHR_VX", 0x8006, 0xF00F⟩, ⟨"SUBN_VX_VY", 0x8007, 0xF00F⟩, ⟨"SHL_VX", 0x800E, 0xF00F⟩ ]

/-- Rows 19 to 34 of R66. -/
def opcodeRowsC : List OpcodeRow :=
  [ ⟨"SNE_VX_VY", 0x9000, 0xF00F⟩, ⟨"LD_I_NNN", 0xA000, 0xF000⟩, ⟨"JP_V0_NNN", 0xB000, 0xF000⟩,
    ⟨"RND_VX_KK", 0xC000, 0xF000⟩, ⟨"DRW_VX_VY_N", 0xD000, 0xF000⟩, ⟨"SKP_VX", 0xE09E, 0xF0FF⟩,
    ⟨"SKNP_VX", 0xE0A1, 0xF0FF⟩, ⟨"LD_VX_DT", 0xF007, 0xF0FF⟩, ⟨"LD_VX_K", 0xF00A, 0xF0FF⟩,
    ⟨"LD_DT_VX", 0xF015, 0xF0FF⟩, ⟨"LD_ST_VX", 0xF018, 0xF0FF⟩, ⟨"ADD_I_VX", 0xF01E, 0xF0FF⟩,
    ⟨"LD_F_VX", 0xF029, 0xF0FF⟩, ⟨"LD_B_VX", 0xF033, 0xF0FF⟩, ⟨"LD_IND_VX", 0xF055, 0xF0FF⟩,
    ⟨"LD_VX_IND", 0xF065, 0xF0FF⟩ ]

/-- The 34 rows of R66, in its order. -/
def opcodeTable : List OpcodeRow := opcodeRowsA ++ opcodeRowsB ++ opcodeRowsC

/-- `op` is the instruction of this row (R66). -/
def OpcodeRow.holds (r : OpcodeRow) (op : Word) : Bool := op &&& r.mask == r.matched

/-- The number of an instruction's row in R66, counted from 0. -/
def Instr.rowNumber : Instr → Nat
  | .cls => 0
  | .ret => 1
  | .jp _ => 2
  | .call _ => 3
  | .seVxKk _ _ => 4
  | .sneVxKk _ _ => 5
  | .seVxVy _ _ => 6
  | .ldVxKk _ _ => 7
  | .addVxKk _ _ => 8
  | .ldVxVy _ _ => 9
  | .orVxVy _ _ => 10
  | .andVxVy _ _ => 11
  | .xorVxVy _ _ => 12
  | .addVxVy _ _ => 13
  | .subVxVy _ _ => 14
  | .shrVx _ _ => 15
  | .subnVxVy _ _ => 16
  | .shlVx _ _ => 17
  | .sneVxVy _ _ => 18
  | .ldINnn _ => 19
  | .jpV0Nnn _ => 20
  | .rndVxKk _ _ => 21
  | .drwVxVyN _ _ _ => 22
  | .skpVx _ => 23
  | .sknpVx _ => 24
  | .ldVxDt _ => 25
  | .ldVxK _ => 26
  | .ldDtVx _ => 27
  | .ldStVx _ => 28
  | .addIVx _ => 29
  | .ldFVx _ => 30
  | .ldBVx _ => 31
  | .ldIndVx _ => 32
  | .ldVxInd _ => 33

end Sys2Proof
end

