-- ==== Sys2Proof/Machine/Flow.lean ====
section
/-!
DEFINITION. Control transfer, `41_flow.md` R100 to R108. Every meaning covers phases 2 and 4 to 6 of the step (R87) of an
opcode fetched at `s.pc`: `s.preState` holds the incremented pc and the ticked timers; a stack fault is raised before the
tick (R84).
-/
namespace Sys2Proof.Machine

/-- `00EE`, return (R101): `StackUnderflow` on an empty stack, else `SP <- SP - 1; pc <- STACK[SP]`. -/
def execRet (s : State) : Host.Outcome State Fault Refusal :=
  match s.preState.pop? with
  | none => .next (s.advancePc.raise .stackUnderflow s.pc (some (encode .ret)))
  | some (w, t) => .next (t.jump w)

/-- `1nnn`, jump (R102). -/
def execJp (nnn : Addr) (s : State) : Host.Outcome State Fault Refusal :=
  .next (s.preState.jump (zextAddr nnn))

/-- `2nnn`, call (R103): `StackOverflow` on a full stack, else the incremented pc is pushed and `pc <- nnn`. -/
def execCall (nnn : Addr) (s : State) : Host.Outcome State Fault Refusal :=
  match s.preState.push? s.preState.pc with
  | none => .next (s.advancePc.raise .stackOverflow s.pc (some (encode (.call nnn))))
  | some t => .next (t.jump (zextAddr nnn))

/-- `Bnnn`, jump with offset (R104): the register is always `V0`; the sum is not masked. -/
def execJpV0Nnn (nnn : Addr) (s : State) : Host.Outcome State Fault Refusal :=
  let t := s.preState
  .next (t.jump (zextAddr nnn + zextByte (t.reg 0)))

/-- `3xkk`, skip if equal to the immediate (R105). -/
def execSeVxKk (x : RegIdx) (kk : Byte) (s : State) : Host.Outcome State Fault Refusal :=
  let t := s.preState
  .next (t.skipIf (t.reg x == kk))

/-- `4xkk`, skip if different from the immediate (R106). -/
def execSneVxKk (x : RegIdx) (kk : Byte) (s : State) : Host.Outcome State Fault Refusal :=
  let t := s.preState
  .next (t.skipIf (t.reg x != kk))

/-- `5xy0`, skip if the registers are equal (R107). -/
def execSeVxVy (x y : RegIdx) (s : State) : Host.Outcome State Fault Refusal :=
  let t := s.preState
  .next (t.skipIf (t.reg x == t.reg y))

/-- `9xy0`, skip if the registers differ (R108). -/
def execSneVxVy (x y : RegIdx) (s : State) : Host.Outcome State Fault Refusal :=
  let t := s.preState
  .next (t.skipIf (t.reg x != t.reg y))

end Sys2Proof.Machine
end

