-- ==== Sys2Proof/Machine/IndexMemory.lean ====
section
/-!
DEFINITION. Index register and memory, `43_index_memory.md` R140 to R146. None of these writes `VF` as a flag; the three memory
instructions leave `I` unchanged (R140).
-/
namespace Sys2Proof.Machine

/-- `Annn`, load index (R141). -/
def execLdINnn (nnn : Addr) (s : State) : Host.Outcome State Fault Refusal :=
  .next (s.preState.setIndex (zextAddr nnn))

/-- `Fx1E`, add register to index, in 16 bits (R142). -/
def execAddIVx (x : RegIdx) (s : State) : Host.Outcome State Fault Refusal :=
  let t := s.preState
  .next (t.setIndex (t.i + zextByte (t.reg x)))

/-- `Fx29`, font glyph address (R143). -/
def execLdFVx (x : RegIdx) (s : State) : Host.Outcome State Fault Refusal :=
  let t := s.preState
  .next (t.setIndex (glyphAddress (t.reg x)))

/-- `Fx33`, store three decimal digits at `EA(0)`, `EA(1)`, `EA(2)` (R144). -/
def execLdBVx (x : RegIdx) (s : State) : Host.Outcome State Fault Refusal :=
  let t := s.preState
  let vx := t.reg x
  .next (((t.memWrite (t.ea 0) (hundreds vx)).memWrite (t.ea 1) (tens vx)).memWrite (t.ea 2) (units vx))

/-- `Fx55`, store `V0` to `Vx` at `EA(0)` to `EA(x)`, ascending (R145). -/
def execLdIndVx (x : RegIdx) (s : State) : Host.Outcome State Fault Refusal :=
  .next (s.preState.storeRegs (regsUpTo x))

/-- `Fx65`, load `V0` to `Vx` from `EA(0)` to `EA(x)`, ascending (R146). -/
def execLdVxInd (x : RegIdx) (s : State) : Host.Outcome State Fault Refusal :=
  .next (s.preState.loadRegs (regsUpTo x))

end Sys2Proof.Machine
end

