-- ==== Sys2Proof/Machine/Input.lean ====
section
/-!
DEFINITION. Key input and suspend, `45_input.md` R170 to R173. The key press that ends a wait is the host move `keyDown`
(`60_exceptions.md` R210) in Machine/HostMoves.lean.
-/
namespace Sys2Proof.Machine

/-- `Ex9E`, skip if the key of code `Vx` is pressed (R171). -/
def execSkpVx (x : RegIdx) (s : State) : Host.Outcome State Fault Refusal :=
  let t := s.preState
  .next (t.skipIf (t.pressed (t.reg x)))

/-- `ExA1`, skip if the key of code `Vx` is not pressed (R172). -/
def execSknpVx (x : RegIdx) (s : State) : Host.Outcome State Fault Refusal :=
  let t := s.preState
  .next (t.skipIf (!t.pressed (t.reg x)))

/-- `Fx0A`, wait for a key press: `MODE <- WaitingForKey(x)`; no register is written here and `KEYS` is not consulted
(R173). -/
def execLdVxK (x : RegIdx) (s : State) : Host.Outcome State Fault Refusal :=
  .next (s.preState.setMode (.waitingForKey x))

end Sys2Proof.Machine
end

