-- ==== Sys2Proof/Machine/Timers.lean ====
section
/-!
DEFINITION. Timer instructions, `46_timers.md` R180 to R183. The tick of the step comes before the effect (R85, D2), so they
see and write the counters after the decrement.
-/
namespace Sys2Proof.Machine

/-- `Fx07`, read the delay timer as left by this step's tick (R181). -/
def execLdVxDt (x : RegIdx) (s : State) : Host.Outcome State Fault Refusal :=
  let t := s.preState
  .next (t.setReg x t.dt)

/-- `Fx15`, set the delay timer (R182). -/
def execLdDtVx (x : RegIdx) (s : State) : Host.Outcome State Fault Refusal :=
  let t := s.preState
  .next (t.setDelay (t.reg x))

/-- `Fx18`, set the sound timer (R183). -/
def execLdStVx (x : RegIdx) (s : State) : Host.Outcome State Fault Refusal :=
  let t := s.preState
  .next (t.setSound (t.reg x))

end Sys2Proof.Machine
end

