-- ==== Sys2Proof/Machine/Engine.lean ====
section
/-!
DEFINITION. One slot of the engine, `40_engine.md` R80 to R92: fetch R81, the two faults of fetch and decode, the call of the
instruction's meaning, and the idle slot R91. Machine/Step.lean only calls this file.
-/
namespace Sys2Proof.Machine

/-- `op = (MemRead(a, 1) << 8) | MemRead(a + 1, 1)` with `a = pc`, read from memory as it is now (R41, R50, R81). It is used
only when `pc <= 0x0FFE`. -/
def State.fetchWord (s : State) : Word :=
  wordOfBytes (s.memRead (s.pc.setWidth 12)) (s.memRead ((s.pc + 1).setWidth 12))

/-- A step in mode Running (R87). Both bytes of the opcode must lie in memory, else `FetchFault` (R81, D7); an illegal word
raises `DecodeFault` with the incremented pc (R83, D14). Phases 2 and 4 to 6 of a legal opcode are the meaning of its instruction. -/
def runningStep (s : State) : Host.Outcome State Fault Refusal :=
  if s.pc.toNat > 0x0FFE then .next (s.raise .fetchFault s.pc none)
  else
    match decodeWord s.fetchWord with
    | .illegal _ => .next (s.advancePc.raise .decodeFault s.pc (some s.fetchWord))
    | .instr i => exec i s

/-- One slot offered by the host (R80): a step in mode Running, else idle, which changes nothing at all (R91, D3, D28). -/
def slot (s : State) : Host.Outcome State Fault Refusal :=
  match s.mode with
  | .running => runningStep s
  | .waitingForKey _ => .next s
  | .faulted => .next s

/-- The state in which the next slot fetches and runs the word `w`, of which the low `nbits` bits are given: the mode is
Running, the word is stored high byte first (R41) where `pc` points, and a `pc` beyond the last fetch address is put back
to `0x200`. It stands for the host's `load` (log entry 20). -/
def placeWord (s : State) (nbits w : Nat) : State :=
  let op : Word := BitVec.ofNat 16 (w % 2 ^ nbits)
  let t : State := { s with mode := .running, fault := none }
  let u : State := if t.pc.toNat > 0x0FFE then t.jump 0x0200 else t
  (u.memWrite (u.pc.setWidth 12) (highByte op)).memWrite ((u.pc + 1).setWidth 12) (lowByte op)

end Sys2Proof.Machine
end

