-- ==== Sys2Proof/Machine/Step.lean ====
section
/-!
DEFINITION. One step of the machine: one slot, `40_engine.md` R80.
-/
namespace Sys2Proof.Machine

/-- One slot (R80, R91): the step relation of the block for the host's move "slot". The other moves of the host (reset,
load, key events) are in Machine/HostMoves.lean. -/
def step : State → Host.Outcome State Fault Refusal := slot

/-- `s` with an instruction placed where `step` fetches next. -/
def State.withFetchWord (s : State) (nbits w : Nat) : State := placeWord s nbits w

end Sys2Proof.Machine
end

