-- ==== Sys2Proof/Machine/Outputs.lean ====
section
/-!
DEFINITION. The outputs of the block, `60_exceptions.md` R221 to R224, `10_state.md` R30: functions of the state, valid at
step boundaries.
-/
namespace Sys2Proof.Machine

/-- `tone_on = (ST != 0)`, a level (R221, D24). -/
def State.toneOn (s : State) : Bool := s.st != 0x00

/-- `fb`: the cell in row `py`, column `px` (R222). -/
def State.fbOut (s : State) (py : Fin 32) (px : Fin 64) : Bool := s.fb.cell py px

/-- `fault` is asserted: the mode is Faulted (R223). -/
def State.faultAsserted (s : State) : Bool := s.mode == .faulted

/-- The record shown with `fault` (R223); it has no meaning in another mode (R28). -/
def State.faultOut (s : State) : Option FaultRecord := if s.faultAsserted then s.fault else none

/-- `waiting` is asserted: the mode is WaitingForKey (R224). -/
def State.waiting (s : State) : Bool :=
  match s.mode with
  | .waitingForKey _ => true
  | .running => false
  | .faulted => false

end Sys2Proof.Machine
end

