-- ==== Sys2Proof/Machine/HostMoves.lean ====
section
/-!
DEFINITION. What the outside world does to the block, `70_reset_and_hazards.md` R252: key events `60_exceptions.md` R210 to R213,
reset R240, load R246, slots R80; and, for completeness, the driver's batch R225, which is outside the block. Each move is
atomic and falls between steps (R212); a run of the block is any sequence of moves.
-/
namespace Sys2Proof.Machine

/-! ## Key events -/

/-- `KEYS[k] <- b`. -/
def State.latchKey (s : State) (k : Key) (b : Bool) : State :=
  { s with keys := s.keys.set k.val b k.isLt }

/-- `key_down(k)` (R210): latch the key; if the engine waits for register `r`, also `V[r] <- zext_8(k)` and back to
Running. A key already latched counts as a press (D16). -/
def State.keyDown (s : State) (k : Key) : State :=
  let t := s.latchKey k true
  match s.mode with
  | .waitingForKey r => (t.setReg r (keyByte k)).setMode .running
  | .running => t
  | .faulted => t

/-- `key_up(k)` (R211): clear the latch, nothing else; a release never ends a wait. -/
def State.keyUp (s : State) (k : Key) : State := s.latchKey k false

/-! ## Reset and load -/

/-- Write bytes at ascending addresses. -/
def Memory.writeBytes (m : Memory) (a : Nat) : List Byte → Memory
  | [] => m
  | b :: bs => Memory.writeBytes (m.write a b) (a + 1) bs

/-- Memory after reset: `FONT` at `0x000..0x04F` and zero above (R16, R240). -/
def Memory.ofFont (f : Font) : Memory := Memory.writeBytes [] 0x000 f.toList

/-- The state right after reset, for any value of the parameter `FONT` (R5, R32, D12). -/
def State.resetWith (f : Font) : State := { State.reset with mem := Memory.ofFont f }

/-- `reset` (R240, R241) of a block with the parameter `FONT`: every piece of state at its reset value, in every mode. The
model's counter of random draws goes on, so that the draws after a reset are not those of before (log entry 2). -/
def State.hostReset (s : State) (f : Font) : State := { State.resetWith f with draws := s.draws }

/-- The effect of `load(bytes)`: `MEM[0x200 + i] <- bytes[i]`, verbatim (R246). -/
def State.loadBytes (s : State) (bytes : List Byte) : State :=
  { s with mem := s.mem.writeBytes 0x200 bytes }

/-! ## Sessions: the block and what its host has done to it -/

/-- The block under its host. `loadable` is the host's side of R246 and R252: no slot has come since the last reset (log
entry 4). It is no state of the block. -/
structure Session where
  /-- The parameter `FONT` of the block (R5). No move changes it. -/
  font : Font
  core : State
  loadable : Bool
  deriving DecidableEq, Repr

/-- The first state of every run of a block with the parameter `FONT`: right after a reset (R242: there is no un-reset
block). -/
def Session.start (f : Font) : Session := ⟨f, State.resetWith f, true⟩

/-- The moves of the host (R252). -/
inductive HostMove where
  | reset
  | load (bytes : List Byte)
  | slot
  | keyDown (k : Key)
  | keyUp (k : Key)
  deriving DecidableEq, Repr

/-- `load` as a move (R246, R252, D19): refused for an image that is too long, or when a slot has come since the last
reset. -/
def Session.load (p : Session) (bytes : List Byte) : Host.Outcome Session Fault Refusal :=
  if romFits bytes then
    if p.loadable then .next { p with core := p.core.loadBytes bytes } else .refused .loadNotAfterReset
  else .refused (.romTooLong bytes.length)

/-- A slot as a move (R80, R91). -/
def Session.slot (p : Session) : Host.Outcome Session Fault Refusal :=
  match step p.core with
  | .next t => .next { p with core := t, loadable := false }
  | .fault r => .fault r
  | .refused r => .refused r

/-- One move of the host (R252). -/
def Session.move (p : Session) : HostMove → Host.Outcome Session Fault Refusal
  | .reset => .next ⟨p.font, p.core.hostReset p.font, true⟩
  | .load bytes => p.load bytes
  | .slot => p.slot
  | .keyDown k => .next { p with core := p.core.keyDown k }
  | .keyUp k => .next { p with core := p.core.keyUp k }

/-- A sequence of moves, in order (R212: any finite sequence of events between two steps). -/
def Session.moves (p : Session) : List HostMove → Host.Outcome Session Fault Refusal
  | [] => .next p
  | m :: ms =>
    match p.move m with
    | .next q => Session.moves q ms
    | .fault r => .fault r
    | .refused r => .refused r

/-- The driver's `loadRom(bytes)` as the block sees it: reset, then load (R227, R245). -/
def Session.loadRom (p : Session) (bytes : List Byte) : Host.Outcome Session Fault Refusal :=
  p.moves [.reset, .load bytes]

/-- The driver's `cycle()` (R225, D23): `speed` slots, then a render, which reads `fb` and changes nothing; a fault abandons the
batch without a render. The second part says whether the render comes. Outside the block. -/
def batch : Nat → State → Host.Outcome (State × Bool) Fault Refusal
  | 0, s => .next (s, true)
  | speed + 1, s =>
    match step s with
    | .next t => if t.faultAsserted then .next (t, false) else batch speed t
    | .fault r => .fault r
    | .refused r => .refused r

end Sys2Proof.Machine
end

