-- ==== Sys2Proof/Safety.lean ====
section
/-!
DEFINITION. The terms the statements use: what an instruction leaves unchanged, the invariant of the block, the end of a
run, the cells of a sprite.
-/
namespace Sys2Proof.Machine

/-! ## Frames -/

/-- What an instruction writes beside the pc and the two timers' tick. The default is nothing. -/
structure Written where
  regs : List RegIdx := []
  mem : List Addr := []
  index : Bool := false
  delay : Bool := false
  sound : Bool := false
  display : Bool := false
  stack : Bool := false
  mode : Bool := false
  draws : Bool := false
  deriving DecidableEq, Repr

/-- The live stack entries are the same (R15; entries at `SP` and above are dead and not spoken of, U10). -/
def SameStack (s t : State) : Prop :=
  t.sp = s.sp ∧ ∀ j : Fin 16, j.val < s.sp.val → t.stack.get j = s.stack.get j

/-- An executed instruction that writes only `w` leaves everything else as it was: registers, every byte of memory, `I`, the
display, the live stack, the keys, the mode, the fault record; the timers tick once, held at 0 (R215: natural
subtraction). The pc is not spoken of. -/
def Frame (w : Written) (s t : State) : Prop :=
  (∀ r, r ∉ w.regs → t.reg r = s.reg r) ∧
  (∀ a, a ∉ w.mem → t.memRead a = s.memRead a) ∧
  (w.index = false → t.i = s.i) ∧
  (w.delay = false → t.dt.toNat = s.dt.toNat - 1) ∧
  (w.sound = false → t.st.toNat = s.st.toNat - 1) ∧
  (w.display = false → t.fb = s.fb) ∧
  (w.stack = false → SameStack s t) ∧
  (w.mode = false → t.mode = s.mode) ∧
  (w.draws = false → t.draws = s.draws) ∧
  t.keys = s.keys ∧
  t.fault = s.fault

/-- Everything but the pc, the mode and the fault record is the same: what a faulting step leaves (R90, R204). -/
def OnlyFaultEntry (s t : State) : Prop :=
  t.v = s.v ∧ t.mem = s.mem ∧ t.i = s.i ∧ t.dt = s.dt ∧ t.st = s.st ∧ t.fb = s.fb ∧ SameStack s t ∧ t.keys = s.keys ∧
  t.draws = s.draws

/-! ## The invariant of the block -/

/-- A fault record says what happened (R201, R202, R204): the record of a state in mode Faulted fits the state. -/
def recordFits (s : State) (r : FaultRecord) : Bool :=
  match r.kind, r.opcode with
  | .fetchFault, none => decide (r.addr.toNat > 0x0FFE) && s.pc == r.addr
  | .decodeFault, some op =>
    decide (r.addr.toNat ≤ 0x0FFE) && s.pc == r.addr + 2 && (decodeWord op).toOption.isNone
  | .stackUnderflow, some op => decide (r.addr.toNat ≤ 0x0FFE) && s.pc == r.addr + 2 && op == 0x00EE && s.sp.val == 0
  | .stackOverflow, some op => decide (r.addr.toNat ≤ 0x0FFE) && s.pc == r.addr + 2 && fieldH op == 2 && s.sp.val == 16
  | _, _ => false

/-- A fault is recorded in mode Faulted and in no other (R28, R32, R205). -/
def faultFits (s : State) : Bool :=
  match s.mode, s.fault with
  | .faulted, some r => recordFits s r
  | .faulted, none => false
  | .running, f => f.isNone
  | .waitingForKey _, f => f.isNone

/-- The invariant: memory in canonical form; `pc` at most `0x10FE`, the largest value any instruction can produce (R14);
every live return address at most `0x1000`, what a call at the last fetch address pushes (R103); a fault record in mode
Faulted only, and fitting the state. -/
abbrev State.Inv (s : State) : Prop :=
  s.mem.wf ∧ s.pc.toNat ≤ 0x10FE ∧ (∀ j : Fin 16, j.val < s.sp.val → (s.stack.get j).toNat ≤ 0x1000) ∧ faultFits s = true

/-! ## End of a run -/

/-- A run is over (R250, D25): mode Running, both timers 0, and the word at `pc` is a jump to `pc`. -/
def State.AtEnd (s : State) : Prop :=
  s.mode = .running ∧ s.dt = 0x00 ∧ s.st = 0x00 ∧ s.pc.toNat ≤ 0x0FFE ∧
  s.fetchWord = encode (.jp (s.pc.setWidth 12))

/-! ## Sprites -/

/-- The sprite that `Dxyn` draws in state `s` covers the cell in row `py`, column `px` with a 1 bit (R163): some byte `row` of
the `n` has the bit `7 - col` set, and pixel `(vx + col, vy + row)` wraps to that cell. -/
def SpriteCovers (s : State) (x y : RegIdx) (n : Nat) (py : Fin 32) (px : Fin 64) : Prop :=
  ∃ row < n, ∃ col < 8, (s.memRead (s.ea row)).getLsbD (7 - col) = true ∧
    px.val = ((s.reg x).toNat + col) % 64 ∧ py.val = ((s.reg y).toNat + row) % 32

end Sys2Proof.Machine
end

