-- ==== Sys2Proof/Certificates/Slice0/Obligations.lean ====
section
/-!
DEFINITION. The statements for the provers. Each formalises rules of spec/ named in its docstring. Results are stated in
natural-number arithmetic, as the rules state them, on the state before the instruction; what an instruction leaves
unchanged is stated in the frames. `exec i s` is the instruction `i` fetched at `s.pc` (phases 2 and 4 to 6 of R87).
-/
open Sys2Proof Sys2Proof.Machine

/-! ## Encoding (`30_encoding.md`) -/

/-- Tier 3. The word of every well-formed instruction decodes to it, every operand at every value the encoding admits
(R61 to R66). -/
def Obligations.DecodeOfEncodeIsTheInstruction : Prop :=
  ∀ i : Instr, i.wellFormed = true → decodeWord (encode i) = .instr i

/-- A word that decodes to an instruction is that instruction's word, and the instruction is well-formed: no bit of a legal
word is dropped (R61 to R66). -/
def Obligations.EncodeOfDecodeIsTheWord : Prop :=
  ∀ (w : Word) (i : Instr), decodeWord w = .instr i → encode i = w ∧ i.wellFormed = true

/-- R68, the table of classes: the illegal words are exactly these, on the digits of the word. The counts of that table are
not stated. Exact match is the spec's decision D20. -/
def Obligations.IllegalWordsAreTheSixClasses : Prop :=
  ∀ w : Word, (∃ c, decodeWord w = .illegal c) ↔
    ((w.toNat / 4096 = 0x0 ∧ w ≠ 0x00E0 ∧ w ≠ 0x00EE) ∨
     (w.toNat / 4096 = 0x5 ∧ w.toNat % 16 ≠ 0) ∨
     (w.toNat / 4096 = 0x8 ∧ w.toNat % 16 ∈ [0x8, 0x9, 0xA, 0xB, 0xC, 0xD, 0xF]) ∨
     (w.toNat / 4096 = 0x9 ∧ w.toNat % 16 ≠ 0) ∨
     (w.toNat / 4096 = 0xE ∧ w.toNat % 256 ∉ [0x9E, 0xA1]) ∨
     (w.toNat / 4096 = 0xF ∧ w.toNat % 256 ∉ [0x07, 0x0A, 0x15, 0x18, 0x1E, 0x29, 0x33, 0x55, 0x65]))

/-- R66: a word is an instruction iff some row of the opcode map matches it; it then is the instruction of that row, and at
most one row matches any word. -/
def Obligations.OpcodeMapDecidesLegality : Prop :=
  (∀ w : Word, (∃ i, decodeWord w = .instr i) ↔ ∃ r ∈ opcodeTable, r.holds w = true) ∧
  (∀ (w : Word) (i : Instr), decodeWord w = .instr i → ∃ r, opcodeTable[i.rowNumber]? = some r ∧ r.holds w = true) ∧
  (∀ w : Word, ∀ r ∈ opcodeTable, ∀ r' ∈ opcodeTable, r.holds w = true → r'.holds w = true → r = r')

/-- Words written out from the encodings of R62 and R66, one per format and family, decode to what they stand for, and words
of R68 are rejected by name. -/
def Obligations.WordsOfEachFormatDecode : Prop :=
  decodeWord 0x00E0 = .instr .cls ∧ decodeWord 0x00EE = .instr .ret ∧ decodeWord 0x1ABC = .instr (.jp 0xABC) ∧
  decodeWord 0x3A42 = .instr (.seVxKk 10 0x42) ∧ decodeWord 0x5120 = .instr (.seVxVy 1 2) ∧
  decodeWord 0x81F7 = .instr (.subnVxVy 1 15) ∧ decodeWord 0x8FFE = .instr (.shlVx 15 15) ∧
  decodeWord 0xD125 = .instr (.drwVxVyN 1 2 5) ∧ decodeWord 0xEFA1 = .instr (.sknpVx 15) ∧
  decodeWord 0xF10A = .instr (.ldVxK 1) ∧ decodeWord 0xFF65 = .instr (.ldVxInd 15) ∧
  decodeWord 0x0000 = .illegal .zeroFamily ∧ decodeWord 0x5121 = .illegal .fiveFamily ∧
  decodeWord 0x800F = .illegal .eightFamily ∧ decodeWord 0xF0FF = .illegal .miscFamily

/-! ## The step (`40_engine.md`, `60_exceptions.md`) -/

/-- R80, R81, R41: in mode Running with both opcode bytes in memory, a step whose big-endian word decodes to `i` is `exec i`,
and nothing else happens around it. -/
def Obligations.StepRunsTheDecodedInstruction : Prop :=
  ∀ (s : State) (w : Word) (i : Instr), s.mode = .running → s.pc.toNat ≤ 0x0FFE →
    w.toNat = (s.memRead (BitVec.ofNat 12 s.pc.toNat)).toNat * 256 +
      (s.memRead (BitVec.ofNat 12 (s.pc.toNat + 1))).toNat →
    decodeWord w = .instr i → step s = exec i s

/-- R81, R202, R204 (decisions D7, D14): in mode Running a fetch beyond `0x0FFE` records a `FetchFault` with its address, keeps
the pc and changes nothing else. R202 gives the record's opcode no meaning; that the field is empty is the model's choice (log
entry 10). -/
def Obligations.FetchFaultEntry : Prop :=
  ∀ s : State, s.mode = .running → s.pc.toNat > 0x0FFE →
    ∃ t, step s = .next t ∧ t.mode = .faulted ∧ t.fault = some ⟨.fetchFault, s.pc, none⟩ ∧ t.pc = s.pc ∧
      OnlyFaultEntry s t

/-- R83, R202, R204 (decision D14): an illegal word records a `DecodeFault` with its address and itself; the pc has advanced,
the timers have not ticked, nothing else changes. -/
def Obligations.DecodeFaultEntry : Prop :=
  ∀ (s : State) (w : Word) (c : IllegalClass), s.mode = .running → s.pc.toNat ≤ 0x0FFE →
    w.toNat = (s.memRead (BitVec.ofNat 12 s.pc.toNat)).toNat * 256 +
      (s.memRead (BitVec.ofNat 12 (s.pc.toNat + 1))).toNat →
    decodeWord w = .illegal c →
    ∃ t, step s = .next t ∧ t.mode = .faulted ∧ t.fault = some ⟨.decodeFault, s.pc, some w⟩ ∧ t.pc = s.pc + 2 ∧
      OnlyFaultEntry s t

/-- R84, R101, R103, R204 (decisions D5, D6, D14): a return on an empty stack and a call on a full one record their fault
before the tick; nothing is popped or pushed. -/
def Obligations.StackFaultEntry : Prop :=
  (∀ s : State, s.sp.val = 0 →
    ∃ t, exec .ret s = .next t ∧ t.mode = .faulted ∧ t.fault = some ⟨.stackUnderflow, s.pc, some 0x00EE⟩ ∧
      t.pc = s.pc + 2 ∧ OnlyFaultEntry s t) ∧
  (∀ (nnn : Addr) (s : State), s.sp.val = 16 →
    ∃ (t : State) (op : Word), exec (.call nnn) s = .next t ∧ op.toNat = 0x2000 + nnn.toNat ∧ t.mode = .faulted ∧
      t.fault = some ⟨.stackOverflow, s.pc, some op⟩ ∧ t.pc = s.pc + 2 ∧ OnlyFaultEntry s t)

/-- R91 (decisions D3, D28): a slot offered outside mode Running changes nothing at all. -/
def Obligations.IdleSlotChangesNothing : Prop :=
  ∀ s : State, s.mode ≠ .running → step s = .next s

/-- R80, R92: every slot, in every state, answers a next state: no refusal and no stop outside the block's own modes. -/
def Obligations.EverySlotAnswers : Prop :=
  ∀ s : State, ∃ t, step s = .next t

/-- R205, R213: in mode Faulted no sequence of slots and key events changes anything but the key latch; only reset leaves it,
and clears the record. -/
def Obligations.FaultedUntilReset : Prop :=
  ∀ (ms : List HostMove) (p : Session), p.core.mode = .faulted →
    (∀ m ∈ ms, m = .slot ∨ (∃ k, m = .keyDown k) ∨ ∃ k, m = .keyUp k) →
    ∃ q, p.moves ms = .next q ∧ q.core = { p.core with keys := q.core.keys } ∧
      ∃ r, q.move .reset = .next r ∧ r.core.mode = .running ∧ r.core.fault = none

/-- R251 (a), R173 (b), (d), (e) (decision D3): while the engine waits for a key, slots and key releases change nothing but the
key latch: nothing but a key press or a reset lets it past `Fx0A`. -/
def Obligations.WaitsUntilKeyPress : Prop :=
  ∀ (ms : List HostMove) (p : Session) (r : RegIdx), p.core.mode = .waitingForKey r →
    (∀ m ∈ ms, m = .slot ∨ ∃ k, m = .keyUp k) →
    ∃ q, p.moves ms = .next q ∧ q.core = { p.core with keys := q.core.keys }

/-- R210 (decision D16 for a key already latched): a key press latches its key and no other; if the engine waits for `V[r]` it
also stores the key number there and returns to Running; it changes nothing else. -/
def Obligations.KeyPressLatchesAndResumes : Prop :=
  ∀ (s : State) (k : Key),
    (s.keyDown k).keys.get k = true ∧ (∀ j, j ≠ k → (s.keyDown k).keys.get j = s.keys.get j) ∧
    (∀ r, s.mode = .waitingForKey r →
      (s.keyDown k).mode = .running ∧ ((s.keyDown k).reg r).toNat = k.val ∧
      (∀ j, j ≠ r → (s.keyDown k).reg j = s.reg j) ∧
      s.keyDown k = { s with keys := (s.keyDown k).keys, v := (s.keyDown k).v, mode := .running }) ∧
    ((∀ r, s.mode ≠ .waitingForKey r) → s.keyDown k = { s with keys := (s.keyDown k).keys })

/-- R211: a key release clears its latch bit and changes nothing else, in every mode. -/
def Obligations.KeyReleaseOnlyClearsItsLatch : Prop :=
  ∀ (s : State) (k : Key),
    (s.keyUp k).keys.get k = false ∧ (∀ j, j ≠ k → (s.keyUp k).keys.get j = s.keys.get j) ∧
    s.keyUp k = { s with keys := (s.keyUp k).keys }

/-- R32, R240, R241, R5 (decision D13 for `I`, the stack, the timers and the fault record): reset, from every state and for
every value of the parameter `FONT`, puts every piece of state at its reset value; memory holds `FONT` at `0x000..0x04F` and
zero above. `State.reset` is the state after reset with the default `FONT` (log entry 1). -/
def Obligations.ResetPutsEveryResetValue : Prop :=
  ∀ (f : Font) (s : State),
    (∀ r, (s.hostReset f).reg r = 0x00) ∧ (s.hostReset f).i = 0x0000 ∧ (s.hostReset f).pc = 0x0200 ∧
    (s.hostReset f).sp = 0 ∧ (∀ j : Fin 16, (s.hostReset f).stack.get j = 0x0000) ∧
    (∀ (j : Fin 80) (a : Addr), a.toNat = j.val → (s.hostReset f).memRead a = f.get j) ∧
    (∀ a : Addr, 80 ≤ a.toNat → (s.hostReset f).memRead a = 0x00) ∧
    (s.hostReset f).dt = 0x00 ∧ (s.hostReset f).st = 0x00 ∧ (∀ py px, (s.hostReset f).fb.cell py px = false) ∧
    (∀ k : Key, (s.hostReset f).keys.get k = false) ∧ (s.hostReset f).mode = .running ∧ (s.hostReset f).fault = none ∧
    State.reset.hostReset defaultFont = State.reset

/-- R246, R252 (decision D19, log entry 4): after reset and before the first slot an image of at most 3584 bytes is written
verbatim from `0x200` up and nothing else changes; a longer image, and a load at another time, is refused. -/
def Obligations.LoadWritesTheImage : Prop :=
  (∀ (p : Session) (bytes : List Byte), p.loadable = true → bytes.length ≤ 3584 →
    ∃ q, p.move (.load bytes) = .next q ∧
      (∀ j < bytes.length, q.core.mem.read (0x200 + j) = bytes.getD j 0x00) ∧
      (∀ a, a < 0x200 ∨ 0x200 + bytes.length ≤ a → q.core.mem.read a = p.core.mem.read a) ∧
      q.core = { p.core with mem := q.core.mem }) ∧
  (∀ (p : Session) (bytes : List Byte), 3584 < bytes.length →
    p.move (.load bytes) = .refused (.romTooLong bytes.length)) ∧
  (∀ (p : Session) (bytes : List Byte), p.loadable = false → bytes.length ≤ 3584 →
    p.move (.load bytes) = .refused .loadNotAfterReset)

/-! ## Invariants -/

/-- The state after reset meets the invariant, for every value of the parameter `FONT`, the default among them. -/
def Obligations.ResetMeetsTheInvariant : Prop :=
  State.reset.Inv ∧ ∀ f : Font, (State.resetWith f).Inv

/-- Tier 3. Every slot keeps the invariant, from every state that meets it: memory stays canonical, `pc` stays at most `0x10FE`
(R14), live return addresses at most `0x1000` (R103), and a fault record stands in mode Faulted only and fits the state
(R28, R202, R204). -/
def Obligations.StepKeepsTheInvariant : Prop :=
  ∀ s t : State, s.Inv → step s = .next t → t.Inv

/-- Tier 3. Every move of the host (reset, load, slot, key press, key release) keeps the invariant (R252). -/
def Obligations.EveryHostMoveKeepsTheInvariant : Prop :=
  ∀ (p q : Session) (m : HostMove), p.core.Inv → p.move m = .next q → q.core.Inv

/-- Every run, for every value of the parameter `FONT` and whatever the host loads, presses and offers (R212, R252), stays in
the invariant, and no move changes the parameter. -/
def Obligations.EveryRunMeetsTheInvariant : Prop :=
  ∀ (f : Font) (ms : List HostMove) (q : Session), (Session.start f).moves ms = .next q → q.core.Inv ∧ q.font = f

/-! ## Rules over all instructions -/

/-- R215, R216, R85 (decisions D1, D2): every executed instruction ticks each counter once, down by 1 and held at 0, unless it
sets that counter itself. A stack fault is no executed instruction. -/
def Obligations.EveryInstructionTicksOnce : Prop :=
  ∀ (i : Instr) (s t : State), (i = .ret → 0 < s.sp.val) → (∀ nnn, i = .call nnn → s.sp.val < 16) →
    exec i s = .next t →
    ((∀ x, i ≠ .ldDtVx x) → t.dt.toNat = s.dt.toNat - 1) ∧ ((∀ x, i ≠ .ldStVx x) → t.st.toNat = s.st.toNat - 1)

/-- R12: an instruction that changes `VF` is one of the six that write it as a flag, or names `VF` as its destination. -/
def Obligations.OnlyFlagInstructionsChangeVF : Prop :=
  ∀ (i : Instr) (s t : State), exec i s = .next t → t.reg 15 ≠ s.reg 15 →
    (∃ x y n, i ∈ [Instr.addVxVy x y, .subVxVy x y, .shrVx x y, .subnVxVy x y, .shlVx x y, .drwVxVyN x y n]) ∨
    (∃ y kk, i ∈ [Instr.ldVxKk 15 kk, .addVxKk 15 kk, .rndVxKk 15 kk, .ldVxVy 15 y, .orVxVy 15 y, .andVxVy 15 y,
      .xorVxVy 15 y, .ldVxDt 15, .ldVxInd 15])

/-- R12: a flag-writing instruction with another destination leaves `0x00` or `0x01` in `VF`. -/
def Obligations.FlagsAreZeroOrOne : Prop :=
  ∀ (x y : RegIdx) (n : Nat) (s : State), x ≠ 15 →
    ∀ i ∈ [Instr.addVxVy x y, .subVxVy x y, .shrVx x y, .subnVxVy x y, .shlVx x y, .drwVxVyN x y n],
      ∃ t, exec i s = .next t ∧ (t.reg 15 = 0x00 ∨ t.reg 15 = 0x01)

/-- R34, R15, R20, R21, R44: which instructions may change the index register, the stack count, the display, memory and the
mode; none changes the key latch. -/
def Obligations.EachStateHasItsWriters : Prop :=
  ∀ (i : Instr) (s t : State), exec i s = .next t →
    t.keys = s.keys ∧
    (t.i ≠ s.i → ∃ nnn x, i ∈ [Instr.ldINnn nnn, .addIVx x, .ldFVx x]) ∧
    (t.sp ≠ s.sp → ∃ nnn, i ∈ [Instr.call nnn, .ret]) ∧
    (t.fb ≠ s.fb → ∃ x y n, i ∈ [Instr.cls, .drwVxVyN x y n]) ∧
    ((∃ a, t.memRead a ≠ s.memRead a) → ∃ x, i ∈ [Instr.ldBVx x, .ldIndVx x]) ∧
    (t.mode ≠ s.mode → ∃ nnn x, i ∈ [Instr.ldVxK x, .ret, .call nnn]) ∧
    (t.fault ≠ s.fault → ∃ nnn, i ∈ [Instr.ret, .call nnn])

/-- R250 (decision D25, the spec's own convention): at the end of a run every further step leaves the whole state unchanged. -/
def Obligations.EndOfRunIsAFixedPoint : Prop :=
  ∀ s : State, s.AtEnd → step s = .next s

/-- R50: a store into the next opcode is seen by the very next fetch: after `Fx55` has stored `V[k]` and `V[k + 1]` where the
next opcode lies, the word fetched is made of them, the lower address high (R41). -/
def Obligations.StoreIsSeenByTheNextFetch : Prop :=
  ∀ (x k k' : RegIdx) (s : State), k'.val = k.val + 1 → k' ≤ x → s.pc.toNat + 2 ≤ 0x0FFE →
    (s.i.toNat + k.val) % 4096 = s.pc.toNat + 2 →
    ∃ t, exec (.ldIndVx x) s = .next t ∧ t.fetchWord.toNat = (s.reg k).toNat * 256 + (s.reg k').toNat

/-! ## Register and arithmetic (`42_alu.md`) -/

/-- R121: `Vx` holds `kk`, for every register and byte; `VF` is unchanged unless it is the destination. -/
def Obligations.LoadImmediateResult : Prop :=
  ∀ (x : RegIdx) (kk : Byte) (s : State),
    ∃ t, exec (.ldVxKk x kk) s = .next t ∧ t.reg x = kk ∧ (x ≠ 15 → t.reg 15 = s.reg 15) ∧
      t.pc = s.pc + 2 ∧ t.mode = s.mode

/-- R122: the sum wraps modulo 256 and `VF` is not written as a flag. -/
def Obligations.AddImmediateResult : Prop :=
  ∀ (x : RegIdx) (kk : Byte) (s : State),
    ∃ t, exec (.addVxKk x kk) s = .next t ∧ (t.reg x).toNat = ((s.reg x).toNat + kk.toNat) % 256 ∧
      (x ≠ 15 → t.reg 15 = s.reg 15) ∧ t.pc = s.pc + 2 ∧ t.mode = s.mode

/-- R123 to R126: copy, OR, AND, exclusive OR, bit by bit; `VF` is not written as a flag. -/
def Obligations.CopyAndLogicResult : Prop :=
  ∀ (x y : RegIdx) (s : State),
    (∃ t, exec (.ldVxVy x y) s = .next t ∧ t.reg x = s.reg y ∧ (x ≠ 15 → t.reg 15 = s.reg 15) ∧
      t.pc = s.pc + 2 ∧ t.mode = s.mode) ∧
    (∃ t, exec (.orVxVy x y) s = .next t ∧
      (∀ k, (t.reg x).getLsbD k = ((s.reg x).getLsbD k || (s.reg y).getLsbD k)) ∧
      (x ≠ 15 → t.reg 15 = s.reg 15) ∧ t.pc = s.pc + 2 ∧ t.mode = s.mode) ∧
    (∃ t, exec (.andVxVy x y) s = .next t ∧
      (∀ k, (t.reg x).getLsbD k = ((s.reg x).getLsbD k && (s.reg y).getLsbD k)) ∧
      (x ≠ 15 → t.reg 15 = s.reg 15) ∧ t.pc = s.pc + 2 ∧ t.mode = s.mode) ∧
    (∃ t, exec (.xorVxVy x y) s = .next t ∧
      (∀ k, (t.reg x).getLsbD k = ((s.reg x).getLsbD k ^^ (s.reg y).getLsbD k)) ∧
      (x ≠ 15 → t.reg 15 = s.reg 15) ∧ t.pc = s.pc + 2 ∧ t.mode = s.mode)

/-- R127: the sum modulo 256, and `VF` the carry; with `x = 0xF` the sum is written last and stands. -/
def Obligations.AddWithCarryResult : Prop :=
  ∀ (x y : RegIdx) (s : State),
    ∃ t, exec (.addVxVy x y) s = .next t ∧ (t.reg x).toNat = ((s.reg x).toNat + (s.reg y).toNat) % 256 ∧
      (x ≠ 15 → (t.reg 15).toNat = if (s.reg x).toNat + (s.reg y).toNat > 255 then 1 else 0) ∧
      t.pc = s.pc + 2 ∧ t.mode = s.mode

/-- R128, R130: the differences modulo 256; `8xy5` flags strictly greater, `8xy7` flags not strictly greater. That the
operands are read first and that the result stands with `x = 0xF` is the spec's decision D9. -/
def Obligations.SubtractResults : Prop :=
  ∀ (x y : RegIdx) (s : State),
    (∃ t, exec (.subVxVy x y) s = .next t ∧
      (t.reg x).toNat = (256 + (s.reg x).toNat - (s.reg y).toNat) % 256 ∧
      (x ≠ 15 → (t.reg 15).toNat = if (s.reg x).toNat > (s.reg y).toNat then 1 else 0) ∧ t.pc = s.pc + 2) ∧
    (∃ t, exec (.subnVxVy x y) s = .next t ∧
      (t.reg x).toNat = (256 + (s.reg y).toNat - (s.reg x).toNat) % 256 ∧
      (x ≠ 15 → (t.reg 15).toNat = if (s.reg x).toNat > (s.reg y).toNat then 0 else 1) ∧ t.pc = s.pc + 2)

/-- R129, R131, R67: shifts of `Vx` by one, the lost bit in `VF`, for every value of the ignored field `y`. That the result
stands with `x = 0xF` is the spec's decision D9. -/
def Obligations.ShiftResults : Prop :=
  ∀ (x y : RegIdx) (s : State),
    (∃ t, exec (.shrVx x y) s = .next t ∧ (t.reg x).toNat = (s.reg x).toNat / 2 ∧
      (x ≠ 15 → (t.reg 15).toNat = (s.reg x).toNat % 2) ∧ t.pc = s.pc + 2) ∧
    (∃ t, exec (.shlVx x y) s = .next t ∧ (t.reg x).toNat = (s.reg x).toNat * 2 % 256 ∧
      (x ≠ 15 → (t.reg 15).toNat = (s.reg x).toNat / 128) ∧ t.pc = s.pc + 2)

/-- R132, R220 (decision D15, log entry 2): the masked next value of the random input, which is free; a bit of the mask that is
0 gives 0; the next draw is another value. -/
def Obligations.RandomByteResult : Prop :=
  ∀ (x : RegIdx) (kk : Byte) (s : State),
    ∃ t, exec (.rndVxKk x kk) s = .next t ∧
      (∀ k, (t.reg x).getLsbD k = ((Config.randomByte s.draws).getLsbD k && kk.getLsbD k)) ∧
      t.draws = s.draws + 1 ∧ t.pc = s.pc + 2

/-! ## Flow control (`41_flow.md`) -/

/-- R102: any 12-bit target, even or odd; no register is written. -/
def Obligations.JumpResult : Prop :=
  ∀ (nnn : Addr) (s : State), ∃ t, exec (.jp nnn) s = .next t ∧ t.pc.toNat = nnn.toNat ∧ t.v = s.v ∧ t.mode = s.mode

/-- R104: always `V0`, and the sum is not masked to 12 bits. -/
def Obligations.JumpWithOffsetResult : Prop :=
  ∀ (nnn : Addr) (s : State),
    ∃ t, exec (.jpV0Nnn nnn) s = .next t ∧ t.pc.toNat = nnn.toNat + (s.reg 0).toNat ∧ t.v = s.v ∧ SameStack s t ∧
      t.mode = s.mode

/-- R105, R106: a skip goes 2 further than the next opcode. -/
def Obligations.SkipOnImmediateResult : Prop :=
  ∀ (x : RegIdx) (kk : Byte) (s : State),
    (∃ t, exec (.seVxKk x kk) s = .next t ∧ t.pc = (if s.reg x = kk then s.pc + 4 else s.pc + 2) ∧ t.v = s.v ∧
      t.mode = s.mode) ∧
    (∃ t, exec (.sneVxKk x kk) s = .next t ∧ t.pc = (if s.reg x = kk then s.pc + 2 else s.pc + 4) ∧ t.v = s.v ∧
      t.mode = s.mode)

/-- R107, R108: a skip on the comparison of two registers goes 2 further than the next opcode; with a low nibble other than 0
the word is illegal, which is the spec's decision D20, exact match (R65, log entry 16). -/
def Obligations.SkipOnRegistersResult : Prop :=
  ∀ (x y : RegIdx) (s : State),
    (∃ t, exec (.seVxVy x y) s = .next t ∧ t.pc = (if s.reg x = s.reg y then s.pc + 4 else s.pc + 2) ∧ t.v = s.v ∧
      t.mode = s.mode) ∧
    (∃ t, exec (.sneVxVy x y) s = .next t ∧ t.pc = (if s.reg x = s.reg y then s.pc + 2 else s.pc + 4) ∧ t.v = s.v ∧
      t.mode = s.mode) ∧
    (∀ n : BitVec 4, n ≠ 0 → decodeWord (formXyn 0x5 x y n) = .illegal .fiveFamily ∧
      decodeWord (formXyn 0x9 x y n) = .illegal .nineFamily)

/-- R101: with an entry in use, a return takes the newest one off and puts it in the pc; the entries below stay. -/
def Obligations.ReturnResult : Prop :=
  ∀ (s : State) (j : Fin 16), s.sp.val = j.val + 1 →
    ∃ t, exec .ret s = .next t ∧ t.pc = s.stack.get j ∧ t.sp.val = j.val ∧
      (∀ l : Fin 16, l.val < j.val → t.stack.get l = s.stack.get l) ∧
      Frame { stack := true } s t

/-- R103: with an entry free, a call pushes the address of the opcode after it and jumps; the entries below stay. -/
def Obligations.CallResult : Prop :=
  ∀ (nnn : Addr) (s : State) (j : Fin 16), s.sp.val = j.val →
    ∃ t, exec (.call nnn) s = .next t ∧ t.pc.toNat = nnn.toNat ∧ t.sp.val = j.val + 1 ∧ t.stack.get j = s.pc + 2 ∧
      (∀ l : Fin 16, l.val < j.val → t.stack.get l = s.stack.get l) ∧
      Frame { stack := true } s t

/-- R101, R103, the source's property: a return after a call restores the pc to the address after the call, and the live
stack to what it was. -/
def Obligations.ReturnAfterCallComesBack : Prop :=
  ∀ (nnn : Addr) (s : State), s.sp.val < 16 →
    ∃ t, exec (.call nnn) s = .next t ∧ ∃ u, exec .ret t = .next u ∧ u.pc = s.pc + 2 ∧ SameStack s u

/-! ## Index and memory (`43_index_memory.md`) -/

/-- R141, R142, R143: the index register after a load, after an addition in 16 bits, and at a glyph; `VF` and the other
registers are not written. -/
def Obligations.IndexResults : Prop :=
  ∀ (nnn : Addr) (x : RegIdx) (s : State),
    (∃ t, exec (.ldINnn nnn) s = .next t ∧ t.i.toNat = nnn.toNat ∧ t.v = s.v ∧ t.pc = s.pc + 2 ∧ t.mode = s.mode) ∧
    (∃ t, exec (.addIVx x) s = .next t ∧ t.i.toNat = (s.i.toNat + (s.reg x).toNat) % 65536 ∧ t.v = s.v ∧
      t.pc = s.pc + 2 ∧ t.mode = s.mode) ∧
    (∃ t, exec (.ldFVx x) s = .next t ∧ t.i.toNat = (s.reg x).toNat * 5 ∧ t.v = s.v ∧
      t.pc = s.pc + 2 ∧ t.mode = s.mode)

/-- R144, R43 (decision D8 for the wrap): the three decimal digits at `(I + k) mod 4096`; `I` stays. -/
def Obligations.StoreDecimalResult : Prop :=
  ∀ (x : RegIdx) (s : State),
    ∃ t, exec (.ldBVx x) s = .next t ∧
      (∀ a : Addr, a.toNat = s.i.toNat % 4096 → (t.memRead a).toNat = (s.reg x).toNat / 100) ∧
      (∀ a : Addr, a.toNat = (s.i.toNat + 1) % 4096 → (t.memRead a).toNat = (s.reg x).toNat / 10 % 10) ∧
      (∀ a : Addr, a.toNat = (s.i.toNat + 2) % 4096 → (t.memRead a).toNat = (s.reg x).toNat % 10) ∧
      t.i = s.i ∧ t.pc = s.pc + 2

/-- R145, R43 (decision D8 for the wrap): `V[k]` at `(I + k) mod 4096` for every `k` up to `x`; `I` stays. -/
def Obligations.StoreRegistersResult : Prop :=
  ∀ (x : RegIdx) (s : State),
    ∃ t, exec (.ldIndVx x) s = .next t ∧
      (∀ (k : RegIdx) (a : Addr), k ≤ x → a.toNat = (s.i.toNat + k.val) % 4096 → t.memRead a = s.reg k) ∧
      t.i = s.i ∧ t.pc = s.pc + 2

/-- R146, R43 (decision D8 for the wrap): `V[k]` from `(I + k) mod 4096` for every `k` up to `x`, the registers above stay;
`I` stays. -/
def Obligations.LoadRegistersResult : Prop :=
  ∀ (x : RegIdx) (s : State),
    ∃ t, exec (.ldVxInd x) s = .next t ∧
      (∀ (k : RegIdx) (a : Addr), k ≤ x → a.toNat = (s.i.toNat + k.val) % 4096 → t.reg k = s.memRead a) ∧
      (∀ k : RegIdx, x < k → t.reg k = s.reg k) ∧ t.i = s.i ∧ t.pc = s.pc + 2

/-- R144, the source's round trip: `Fx33` and then `F265` from the same `I` give the digits back in `V0`, `V1`, `V2`. -/
def Obligations.DecimalRoundTrip : Prop :=
  ∀ (x : RegIdx) (s : State),
    ∃ t, exec (.ldBVx x) s = .next t ∧ ∃ u, exec (.ldVxInd 2) t = .next u ∧
      (u.reg 0).toNat = (s.reg x).toNat / 100 ∧ (u.reg 1).toNat = (s.reg x).toNat / 10 % 10 ∧
      (u.reg 2).toNat = (s.reg x).toNat % 10

/-! ## Display (`44_display.md`) -/

/-- R161: every cell is 0 and `VF` is not written. -/
def Obligations.ClearDisplayResult : Prop :=
  ∀ s : State, ∃ t, exec .cls s = .next t ∧ (∀ py px, t.fb.cell py px = false) ∧ t.v = s.v ∧
      t.pc = s.pc + 2 ∧ t.mode = s.mode

/-- R162, R163 (decisions D9 and D11, log entry 14): a draw toggles exactly the cells that the sprite covers with a 1 bit, each
pixel wrapping by itself; `VF` is 1 iff a covered cell was set, else 0, whatever it was before. -/
def Obligations.DrawIsExclusiveOr : Prop :=
  ∀ (x y : RegIdx) (n : Nat) (s : State), n < 16 →
    ∃ t, exec (.drwVxVyN x y n) s = .next t ∧
      (∀ py px, SpriteCovers s x y n py px → t.fb.cell py px = !s.fb.cell py px) ∧
      (∀ py px, ¬SpriteCovers s x y n py px → t.fb.cell py px = s.fb.cell py px) ∧
      ((∃ py px, SpriteCovers s x y n py px ∧ s.fb.cell py px = true) → t.reg 15 = 0x01) ∧
      ((¬∃ py px, SpriteCovers s x y n py px ∧ s.fb.cell py px = true) → t.reg 15 = 0x00) ∧
      t.i = s.i ∧ t.pc = s.pc + 2

/-- R163 (g), the source's property: the same sprite drawn twice at the same place restores the bitmap; on the second draw
`VF = 1` iff some cell it toggles was set just before. -/
def Obligations.DrawingTwiceRestores : Prop :=
  ∀ (x y : RegIdx) (n : Nat) (s : State), n < 16 →
    ∃ t, exec (.drwVxVyN x y n) s = .next t ∧ ∃ u, exec (.drwVxVyN x y n) { t with v := s.v } = .next u ∧
      u.fb = s.fb ∧ (u.reg 15 = 0x01 ↔ ∃ py px, SpriteCovers s x y n py px ∧ t.fb.cell py px = true)

/-! ## Keys and timers (`45_input.md`, `46_timers.md`) -/

/-- R170, R171, R172: the skips test the latch of the key whose number is `Vx`; a key code above `0x0F` is never pressed
(decision D10). -/
def Obligations.KeySkipResults : Prop :=
  ∀ (x : RegIdx) (s : State),
    ((∃ k : Key, k.val = (s.reg x).toNat ∧ s.keys.get k = true) →
      (∃ t, exec (.skpVx x) s = .next t ∧ t.pc = s.pc + 4 ∧ t.v = s.v) ∧
      (∃ t, exec (.sknpVx x) s = .next t ∧ t.pc = s.pc + 2 ∧ t.v = s.v)) ∧
    ((¬∃ k : Key, k.val = (s.reg x).toNat ∧ s.keys.get k = true) →
      (∃ t, exec (.skpVx x) s = .next t ∧ t.pc = s.pc + 2 ∧ t.v = s.v) ∧
      (∃ t, exec (.sknpVx x) s = .next t ∧ t.pc = s.pc + 4 ∧ t.v = s.v))

/-- R173, R210: `Fx0A` enters the wait whatever keys are held (decision D27), writing no register; the next key press stores
its number in `Vx` and the following slot fetches at the opcode after it. -/
def Obligations.KeyWaitResult : Prop :=
  ∀ (x : RegIdx) (k : Key) (s : State),
    ∃ t, exec (.ldVxK x) s = .next t ∧ t.mode = .waitingForKey x ∧ t.v = s.v ∧ t.pc = s.pc + 2 ∧
      (t.keyDown k).mode = .running ∧ ((t.keyDown k).reg x).toNat = k.val ∧ (t.keyDown k).pc = s.pc + 2

/-- R181, R215 (decision D2): the value read is the delay timer after this step's tick. -/
def Obligations.ReadDelayResult : Prop :=
  ∀ (x : RegIdx) (s : State),
    ∃ t, exec (.ldVxDt x) s = .next t ∧ t.reg x = t.dt ∧ (t.reg x).toNat = s.dt.toNat - 1 ∧ t.pc = s.pc + 2

/-- R182, R183, R221 (decision D2): the timer written holds `Vx` exactly at the end of the step, and the tone output follows
the sound timer at once. -/
def Obligations.SetTimerResults : Prop :=
  ∀ (x : RegIdx) (s : State),
    (∃ t, exec (.ldDtVx x) s = .next t ∧ t.dt = s.reg x ∧ t.v = s.v ∧ t.pc = s.pc + 2) ∧
    (∃ t, exec (.ldStVx x) s = .next t ∧ t.st = s.reg x ∧ (t.toneOn = true ↔ s.reg x ≠ 0x00) ∧ t.v = s.v ∧
      t.pc = s.pc + 2)

/-! ## Frames: what each instruction leaves unchanged (R44, R86, R120, R140, R160, R215) -/

/-- The instructions that write one data register complete and leave every other register, every byte of memory and all other
state as it was, but for the pc and the timer tick; `Cxkk` also counts its draw. -/
def Obligations.RegisterWriteFrame : Prop :=
  ∀ (x y : RegIdx) (kk : Byte) (s : State),
    (∀ i ∈ [Instr.ldVxKk x kk, .addVxKk x kk, .ldVxVy x y, .orVxVy x y, .andVxVy x y, .xorVxVy x y, .ldVxDt x],
      ∃ t, exec i s = .next t ∧ Frame { regs := [x] } s t) ∧
    (∃ t, exec (.rndVxKk x kk) s = .next t ∧ Frame { regs := [x], draws := true } s t)

/-- The instructions that write a result and `VF` complete and leave every other register, every byte of memory and all other
state as it was, but for the pc and the timer tick. -/
def Obligations.FlagWriteFrame : Prop :=
  ∀ (x y : RegIdx) (s : State),
    ∀ i ∈ [Instr.addVxVy x y, .subVxVy x y, .shrVx x y, .subnVxVy x y, .shlVx x y],
      ∃ t, exec i s = .next t ∧ Frame { regs := [x, 15] } s t

/-- The jumps and skips complete and write nothing but the pc, beside the timer tick. -/
def Obligations.JumpAndSkipFrame : Prop :=
  ∀ (x y : RegIdx) (kk : Byte) (nnn : Addr) (s : State),
    ∀ i ∈ [Instr.jp nnn, .jpV0Nnn nnn, .seVxKk x kk, .sneVxKk x kk, .seVxVy x y, .sneVxVy x y, .skpVx x, .sknpVx x],
      ∃ t, exec i s = .next t ∧ Frame {} s t

/-- The instructions that write the index register, a timer, or the mode complete and leave all other state as it was, but for
the pc and the timer tick. -/
def Obligations.IndexTimerAndWaitFrame : Prop :=
  ∀ (x : RegIdx) (nnn : Addr) (s : State),
    (∀ i ∈ [Instr.ldINnn nnn, .addIVx x, .ldFVx x], ∃ t, exec i s = .next t ∧ Frame { index := true } s t) ∧
    (∃ t, exec (.ldDtVx x) s = .next t ∧ Frame { delay := true } s t) ∧
    (∃ t, exec (.ldStVx x) s = .next t ∧ Frame { sound := true } s t) ∧
    (∃ t, exec (.ldVxK x) s = .next t ∧ Frame { mode := true } s t)

/-- The display instructions complete and leave all state but the bitmap, the pc and the timer tick as it was: a clear writes no
register, a draw writes `VF`. -/
def Obligations.DisplayFrame : Prop :=
  ∀ (x y : RegIdx) (n : Nat) (s : State),
    (∃ t, exec .cls s = .next t ∧ Frame { display := true } s t) ∧
    (∃ t, exec (.drwVxVyN x y n) s = .next t ∧ Frame { display := true, regs := [15] } s t)

/-- The memory instructions: `Fx33` stores at `EA(0)` to `EA(2)`, `Fx55` at `EA(0)` to `EA(x)`, with `EA` computed on the pre-state
as the meaning computes it (R43, R88); `Fx65` stores nothing and writes `V0` to `Vx`. -/
def Obligations.MemoryFrame : Prop :=
  ∀ (x : RegIdx) (s : State),
    (∃ t, exec (.ldBVx x) s = .next t ∧
      Frame { mem := [s.preState.ea 0, s.preState.ea 1, s.preState.ea 2] } s t) ∧
    (∃ t, exec (.ldIndVx x) s = .next t ∧ Frame { mem := (List.range (x.val + 1)).map s.preState.ea } s t) ∧
    (∃ t, exec (.ldVxInd x) s = .next t ∧ Frame { regs := regsUpTo x } s t)

/-! ## The glyphs (R17, R143) -/

/-- R17, R143, R43 (decision D8 for the address): after reset, for every value of the parameter `FONT`, `Fx29` with a digit `d` in
`Vx` points at glyph `d`: byte `k` of the sprite at `I` is `FONT[d * 5 + k]`. The other registers are free. -/
def Obligations.GlyphAddressReachesTheGlyph : Prop :=
  ∀ (f : Font) (v : Vector Byte 16) (x : RegIdx) (d : Fin 16) (k : Fin 5) (j : Fin 80),
    (v.get x).toNat = d.val → j.val = d.val * 5 + k.val →
    ∃ t, exec (.ldFVx x) { State.resetWith f with v := v } = .next t ∧ t.memRead (t.ea k.val) = f.get j
end

