-- ==== Sys2Proof/Laws/State.lean ====
section
/-!
SUPPORT. The small lemmas of the state record: for each named update and each field, and for each accessor that the update
leaves alone, what it reads afterwards. All are true by unfolding.
-/
namespace Sys2Proof.Machine

variable (s : State)

/-! ### `jump` -/

@[simp] theorem State.jump_mem (w : Word) : (s.jump w).mem = s.mem := rfl
@[simp] theorem State.jump_v (w : Word) : (s.jump w).v = s.v := rfl
@[simp] theorem State.jump_i (w : Word) : (s.jump w).i = s.i := rfl
@[simp] theorem State.jump_pc (w : Word) : (s.jump w).pc = w := rfl
@[simp] theorem State.jump_stack (w : Word) : (s.jump w).stack = s.stack := rfl
@[simp] theorem State.jump_sp (w : Word) : (s.jump w).sp = s.sp := rfl
@[simp] theorem State.jump_dt (w : Word) : (s.jump w).dt = s.dt := rfl
@[simp] theorem State.jump_st (w : Word) : (s.jump w).st = s.st := rfl
@[simp] theorem State.jump_fb (w : Word) : (s.jump w).fb = s.fb := rfl
@[simp] theorem State.jump_keys (w : Word) : (s.jump w).keys = s.keys := rfl
@[simp] theorem State.jump_mode (w : Word) : (s.jump w).mode = s.mode := rfl
@[simp] theorem State.jump_fault (w : Word) : (s.jump w).fault = s.fault := rfl
@[simp] theorem State.jump_draws (w : Word) : (s.jump w).draws = s.draws := rfl
@[simp] theorem State.jump_reg (w : Word) (j : RegIdx) : (s.jump w).reg j = s.reg j := rfl
@[simp] theorem State.jump_memRead (w : Word) (c : Addr) : (s.jump w).memRead c = s.memRead c := rfl
@[simp] theorem State.jump_ea (w : Word) (j : Nat) : (s.jump w).ea j = s.ea j := rfl
@[simp] theorem State.jump_pressed (w : Word) (c : Byte) : (s.jump w).pressed c = s.pressed c := rfl

/-! ### `advancePc` -/

@[simp] theorem State.advancePc_mem : (s.advancePc).mem = s.mem := rfl
@[simp] theorem State.advancePc_v : (s.advancePc).v = s.v := rfl
@[simp] theorem State.advancePc_i : (s.advancePc).i = s.i := rfl
@[simp] theorem State.advancePc_pc : (s.advancePc).pc = s.pc + 2 := rfl
@[simp] theorem State.advancePc_stack : (s.advancePc).stack = s.stack := rfl
@[simp] theorem State.advancePc_sp : (s.advancePc).sp = s.sp := rfl
@[simp] theorem State.advancePc_dt : (s.advancePc).dt = s.dt := rfl
@[simp] theorem State.advancePc_st : (s.advancePc).st = s.st := rfl
@[simp] theorem State.advancePc_fb : (s.advancePc).fb = s.fb := rfl
@[simp] theorem State.advancePc_keys : (s.advancePc).keys = s.keys := rfl
@[simp] theorem State.advancePc_mode : (s.advancePc).mode = s.mode := rfl
@[simp] theorem State.advancePc_fault : (s.advancePc).fault = s.fault := rfl
@[simp] theorem State.advancePc_draws : (s.advancePc).draws = s.draws := rfl
@[simp] theorem State.advancePc_reg (j : RegIdx) : (s.advancePc).reg j = s.reg j := rfl
@[simp] theorem State.advancePc_memRead (c : Addr) : (s.advancePc).memRead c = s.memRead c := rfl
@[simp] theorem State.advancePc_ea (j : Nat) : (s.advancePc).ea j = s.ea j := rfl
@[simp] theorem State.advancePc_pressed (c : Byte) : (s.advancePc).pressed c = s.pressed c := rfl

/-! ### `setIndex` -/

@[simp] theorem State.setIndex_mem (w : Word) : (s.setIndex w).mem = s.mem := rfl
@[simp] theorem State.setIndex_v (w : Word) : (s.setIndex w).v = s.v := rfl
@[simp] theorem State.setIndex_i (w : Word) : (s.setIndex w).i = w := rfl
@[simp] theorem State.setIndex_pc (w : Word) : (s.setIndex w).pc = s.pc := rfl
@[simp] theorem State.setIndex_stack (w : Word) : (s.setIndex w).stack = s.stack := rfl
@[simp] theorem State.setIndex_sp (w : Word) : (s.setIndex w).sp = s.sp := rfl
@[simp] theorem State.setIndex_dt (w : Word) : (s.setIndex w).dt = s.dt := rfl
@[simp] theorem State.setIndex_st (w : Word) : (s.setIndex w).st = s.st := rfl
@[simp] theorem State.setIndex_fb (w : Word) : (s.setIndex w).fb = s.fb := rfl
@[simp] theorem State.setIndex_keys (w : Word) : (s.setIndex w).keys = s.keys := rfl
@[simp] theorem State.setIndex_mode (w : Word) : (s.setIndex w).mode = s.mode := rfl
@[simp] theorem State.setIndex_fault (w : Word) : (s.setIndex w).fault = s.fault := rfl
@[simp] theorem State.setIndex_draws (w : Word) : (s.setIndex w).draws = s.draws := rfl
@[simp] theorem State.setIndex_reg (w : Word) (j : RegIdx) : (s.setIndex w).reg j = s.reg j := rfl
@[simp] theorem State.setIndex_memRead (w : Word) (c : Addr) : (s.setIndex w).memRead c = s.memRead c := rfl
@[simp] theorem State.setIndex_pressed (w : Word) (c : Byte) : (s.setIndex w).pressed c = s.pressed c := rfl

/-! ### `timerTick` -/

@[simp] theorem State.timerTick_mem : (s.timerTick).mem = s.mem := rfl
@[simp] theorem State.timerTick_v : (s.timerTick).v = s.v := rfl
@[simp] theorem State.timerTick_i : (s.timerTick).i = s.i := rfl
@[simp] theorem State.timerTick_pc : (s.timerTick).pc = s.pc := rfl
@[simp] theorem State.timerTick_stack : (s.timerTick).stack = s.stack := rfl
@[simp] theorem State.timerTick_sp : (s.timerTick).sp = s.sp := rfl
@[simp] theorem State.timerTick_dt : (s.timerTick).dt = countDown s.dt := rfl
@[simp] theorem State.timerTick_st : (s.timerTick).st = countDown s.st := rfl
@[simp] theorem State.timerTick_fb : (s.timerTick).fb = s.fb := rfl
@[simp] theorem State.timerTick_keys : (s.timerTick).keys = s.keys := rfl
@[simp] theorem State.timerTick_mode : (s.timerTick).mode = s.mode := rfl
@[simp] theorem State.timerTick_fault : (s.timerTick).fault = s.fault := rfl
@[simp] theorem State.timerTick_draws : (s.timerTick).draws = s.draws := rfl
@[simp] theorem State.timerTick_reg (j : RegIdx) : (s.timerTick).reg j = s.reg j := rfl
@[simp] theorem State.timerTick_memRead (c : Addr) : (s.timerTick).memRead c = s.memRead c := rfl
@[simp] theorem State.timerTick_ea (j : Nat) : (s.timerTick).ea j = s.ea j := rfl
@[simp] theorem State.timerTick_pressed (c : Byte) : (s.timerTick).pressed c = s.pressed c := rfl

/-! ### `preState` -/

@[simp] theorem State.preState_mem : (s.preState).mem = s.mem := rfl
@[simp] theorem State.preState_v : (s.preState).v = s.v := rfl
@[simp] theorem State.preState_i : (s.preState).i = s.i := rfl
@[simp] theorem State.preState_pc : (s.preState).pc = s.pc + 2 := rfl
@[simp] theorem State.preState_stack : (s.preState).stack = s.stack := rfl
@[simp] theorem State.preState_sp : (s.preState).sp = s.sp := rfl
@[simp] theorem State.preState_dt : (s.preState).dt = countDown s.dt := rfl
@[simp] theorem State.preState_st : (s.preState).st = countDown s.st := rfl
@[simp] theorem State.preState_fb : (s.preState).fb = s.fb := rfl
@[simp] theorem State.preState_keys : (s.preState).keys = s.keys := rfl
@[simp] theorem State.preState_mode : (s.preState).mode = s.mode := rfl
@[simp] theorem State.preState_fault : (s.preState).fault = s.fault := rfl
@[simp] theorem State.preState_draws : (s.preState).draws = s.draws := rfl
@[simp] theorem State.preState_reg (j : RegIdx) : (s.preState).reg j = s.reg j := rfl
@[simp] theorem State.preState_memRead (c : Addr) : (s.preState).memRead c = s.memRead c := rfl
@[simp] theorem State.preState_ea (j : Nat) : (s.preState).ea j = s.ea j := rfl
@[simp] theorem State.preState_pressed (c : Byte) : (s.preState).pressed c = s.pressed c := rfl

/-! ### `setDelay` -/

@[simp] theorem State.setDelay_mem (b : Byte) : (s.setDelay b).mem = s.mem := rfl
@[simp] theorem State.setDelay_v (b : Byte) : (s.setDelay b).v = s.v := rfl
@[simp] theorem State.setDelay_i (b : Byte) : (s.setDelay b).i = s.i := rfl
@[simp] theorem State.setDelay_pc (b : Byte) : (s.setDelay b).pc = s.pc := rfl
@[simp] theorem State.setDelay_stack (b : Byte) : (s.setDelay b).stack = s.stack := rfl
@[simp] theorem State.setDelay_sp (b : Byte) : (s.setDelay b).sp = s.sp := rfl
@[simp] theorem State.setDelay_dt (b : Byte) : (s.setDelay b).dt = b := rfl
@[simp] theorem State.setDelay_st (b : Byte) : (s.setDelay b).st = s.st := rfl
@[simp] theorem State.setDelay_fb (b : Byte) : (s.setDelay b).fb = s.fb := rfl
@[simp] theorem State.setDelay_keys (b : Byte) : (s.setDelay b).keys = s.keys := rfl
@[simp] theorem State.setDelay_mode (b : Byte) : (s.setDelay b).mode = s.mode := rfl
@[simp] theorem State.setDelay_fault (b : Byte) : (s.setDelay b).fault = s.fault := rfl
@[simp] theorem State.setDelay_draws (b : Byte) : (s.setDelay b).draws = s.draws := rfl
@[simp] theorem State.setDelay_reg (b : Byte) (j : RegIdx) : (s.setDelay b).reg j = s.reg j := rfl
@[simp] theorem State.setDelay_memRead (b : Byte) (c : Addr) : (s.setDelay b).memRead c = s.memRead c := rfl
@[simp] theorem State.setDelay_ea (b : Byte) (j : Nat) : (s.setDelay b).ea j = s.ea j := rfl
@[simp] theorem State.setDelay_pressed (b : Byte) (c : Byte) : (s.setDelay b).pressed c = s.pressed c := rfl

/-! ### `setSound` -/

@[simp] theorem State.setSound_mem (b : Byte) : (s.setSound b).mem = s.mem := rfl
@[simp] theorem State.setSound_v (b : Byte) : (s.setSound b).v = s.v := rfl
@[simp] theorem State.setSound_i (b : Byte) : (s.setSound b).i = s.i := rfl
@[simp] theorem State.setSound_pc (b : Byte) : (s.setSound b).pc = s.pc := rfl
@[simp] theorem State.setSound_stack (b : Byte) : (s.setSound b).stack = s.stack := rfl
@[simp] theorem State.setSound_sp (b : Byte) : (s.setSound b).sp = s.sp := rfl
@[simp] theorem State.setSound_dt (b : Byte) : (s.setSound b).dt = s.dt := rfl
@[simp] theorem State.setSound_st (b : Byte) : (s.setSound b).st = b := rfl
@[simp] theorem State.setSound_fb (b : Byte) : (s.setSound b).fb = s.fb := rfl
@[simp] theorem State.setSound_keys (b : Byte) : (s.setSound b).keys = s.keys := rfl
@[simp] theorem State.setSound_mode (b : Byte) : (s.setSound b).mode = s.mode := rfl
@[simp] theorem State.setSound_fault (b : Byte) : (s.setSound b).fault = s.fault := rfl
@[simp] theorem State.setSound_draws (b : Byte) : (s.setSound b).draws = s.draws := rfl
@[simp] theorem State.setSound_reg (b : Byte) (j : RegIdx) : (s.setSound b).reg j = s.reg j := rfl
@[simp] theorem State.setSound_memRead (b : Byte) (c : Addr) : (s.setSound b).memRead c = s.memRead c := rfl
@[simp] theorem State.setSound_ea (b : Byte) (j : Nat) : (s.setSound b).ea j = s.ea j := rfl
@[simp] theorem State.setSound_pressed (b : Byte) (c : Byte) : (s.setSound b).pressed c = s.pressed c := rfl

/-! ### `memWrite` -/

@[simp] theorem State.memWrite_mem (a : Addr) (b : Byte) : (s.memWrite a b).mem = s.mem.write a.toNat b := rfl
@[simp] theorem State.memWrite_v (a : Addr) (b : Byte) : (s.memWrite a b).v = s.v := rfl
@[simp] theorem State.memWrite_i (a : Addr) (b : Byte) : (s.memWrite a b).i = s.i := rfl
@[simp] theorem State.memWrite_pc (a : Addr) (b : Byte) : (s.memWrite a b).pc = s.pc := rfl
@[simp] theorem State.memWrite_stack (a : Addr) (b : Byte) : (s.memWrite a b).stack = s.stack := rfl
@[simp] theorem State.memWrite_sp (a : Addr) (b : Byte) : (s.memWrite a b).sp = s.sp := rfl
@[simp] theorem State.memWrite_dt (a : Addr) (b : Byte) : (s.memWrite a b).dt = s.dt := rfl
@[simp] theorem State.memWrite_st (a : Addr) (b : Byte) : (s.memWrite a b).st = s.st := rfl
@[simp] theorem State.memWrite_fb (a : Addr) (b : Byte) : (s.memWrite a b).fb = s.fb := rfl
@[simp] theorem State.memWrite_keys (a : Addr) (b : Byte) : (s.memWrite a b).keys = s.keys := rfl
@[simp] theorem State.memWrite_mode (a : Addr) (b : Byte) : (s.memWrite a b).mode = s.mode := rfl
@[simp] theorem State.memWrite_fault (a : Addr) (b : Byte) : (s.memWrite a b).fault = s.fault := rfl
@[simp] theorem State.memWrite_draws (a : Addr) (b : Byte) : (s.memWrite a b).draws = s.draws := rfl
@[simp] theorem State.memWrite_reg (a : Addr) (b : Byte) (j : RegIdx) : (s.memWrite a b).reg j = s.reg j := rfl
@[simp] theorem State.memWrite_ea (a : Addr) (b : Byte) (j : Nat) : (s.memWrite a b).ea j = s.ea j := rfl
@[simp] theorem State.memWrite_pressed (a : Addr) (b : Byte) (c : Byte) : (s.memWrite a b).pressed c = s.pressed c := rfl

/-! ### `setReg` -/

@[simp] theorem State.setReg_mem (r : RegIdx) (b : Byte) : (s.setReg r b).mem = s.mem := rfl
@[simp] theorem State.setReg_v (r : RegIdx) (b : Byte) : (s.setReg r b).v = s.v.set r.val b r.isLt := rfl
@[simp] theorem State.setReg_i (r : RegIdx) (b : Byte) : (s.setReg r b).i = s.i := rfl
@[simp] theorem State.setReg_pc (r : RegIdx) (b : Byte) : (s.setReg r b).pc = s.pc := rfl
@[simp] theorem State.setReg_stack (r : RegIdx) (b : Byte) : (s.setReg r b).stack = s.stack := rfl
@[simp] theorem State.setReg_sp (r : RegIdx) (b : Byte) : (s.setReg r b).sp = s.sp := rfl
@[simp] theorem State.setReg_dt (r : RegIdx) (b : Byte) : (s.setReg r b).dt = s.dt := rfl
@[simp] theorem State.setReg_st (r : RegIdx) (b : Byte) : (s.setReg r b).st = s.st := rfl
@[simp] theorem State.setReg_fb (r : RegIdx) (b : Byte) : (s.setReg r b).fb = s.fb := rfl
@[simp] theorem State.setReg_keys (r : RegIdx) (b : Byte) : (s.setReg r b).keys = s.keys := rfl
@[simp] theorem State.setReg_mode (r : RegIdx) (b : Byte) : (s.setReg r b).mode = s.mode := rfl
@[simp] theorem State.setReg_fault (r : RegIdx) (b : Byte) : (s.setReg r b).fault = s.fault := rfl
@[simp] theorem State.setReg_draws (r : RegIdx) (b : Byte) : (s.setReg r b).draws = s.draws := rfl
@[simp] theorem State.setReg_memRead (r : RegIdx) (b : Byte) (c : Addr) : (s.setReg r b).memRead c = s.memRead c := rfl
@[simp] theorem State.setReg_ea (r : RegIdx) (b : Byte) (j : Nat) : (s.setReg r b).ea j = s.ea j := rfl
@[simp] theorem State.setReg_pressed (r : RegIdx) (b : Byte) (c : Byte) : (s.setReg r b).pressed c = s.pressed c := rfl

/-! ### `writeFlagThenResult` -/

@[simp] theorem State.writeFlagThenResult_mem (x : RegIdx) (f b : Byte) : (s.writeFlagThenResult x f b).mem = s.mem := rfl
@[simp] theorem State.writeFlagThenResult_i (x : RegIdx) (f b : Byte) : (s.writeFlagThenResult x f b).i = s.i := rfl
@[simp] theorem State.writeFlagThenResult_pc (x : RegIdx) (f b : Byte) : (s.writeFlagThenResult x f b).pc = s.pc := rfl
@[simp] theorem State.writeFlagThenResult_stack (x : RegIdx) (f b : Byte) : (s.writeFlagThenResult x f b).stack = s.stack := rfl
@[simp] theorem State.writeFlagThenResult_sp (x : RegIdx) (f b : Byte) : (s.writeFlagThenResult x f b).sp = s.sp := rfl
@[simp] theorem State.writeFlagThenResult_dt (x : RegIdx) (f b : Byte) : (s.writeFlagThenResult x f b).dt = s.dt := rfl
@[simp] theorem State.writeFlagThenResult_st (x : RegIdx) (f b : Byte) : (s.writeFlagThenResult x f b).st = s.st := rfl
@[simp] theorem State.writeFlagThenResult_fb (x : RegIdx) (f b : Byte) : (s.writeFlagThenResult x f b).fb = s.fb := rfl
@[simp] theorem State.writeFlagThenResult_keys (x : RegIdx) (f b : Byte) : (s.writeFlagThenResult x f b).keys = s.keys := rfl
@[simp] theorem State.writeFlagThenResult_mode (x : RegIdx) (f b : Byte) : (s.writeFlagThenResult x f b).mode = s.mode := rfl
@[simp] theorem State.writeFlagThenResult_fault (x : RegIdx) (f b : Byte) : (s.writeFlagThenResult x f b).fault = s.fault := rfl
@[simp] theorem State.writeFlagThenResult_draws (x : RegIdx) (f b : Byte) : (s.writeFlagThenResult x f b).draws = s.draws := rfl
@[simp] theorem State.writeFlagThenResult_memRead (x : RegIdx) (f b : Byte) (c : Addr) : (s.writeFlagThenResult x f b).memRead c = s.memRead c := rfl
@[simp] theorem State.writeFlagThenResult_ea (x : RegIdx) (f b : Byte) (j : Nat) : (s.writeFlagThenResult x f b).ea j = s.ea j := rfl
@[simp] theorem State.writeFlagThenResult_pressed (x : RegIdx) (f b : Byte) (c : Byte) : (s.writeFlagThenResult x f b).pressed c = s.pressed c := rfl

/-! ### `setMode` -/

@[simp] theorem State.setMode_mem (m : Mode) : (s.setMode m).mem = s.mem := rfl
@[simp] theorem State.setMode_v (m : Mode) : (s.setMode m).v = s.v := rfl
@[simp] theorem State.setMode_i (m : Mode) : (s.setMode m).i = s.i := rfl
@[simp] theorem State.setMode_pc (m : Mode) : (s.setMode m).pc = s.pc := rfl
@[simp] theorem State.setMode_stack (m : Mode) : (s.setMode m).stack = s.stack := rfl
@[simp] theorem State.setMode_sp (m : Mode) : (s.setMode m).sp = s.sp := rfl
@[simp] theorem State.setMode_dt (m : Mode) : (s.setMode m).dt = s.dt := rfl
@[simp] theorem State.setMode_st (m : Mode) : (s.setMode m).st = s.st := rfl
@[simp] theorem State.setMode_fb (m : Mode) : (s.setMode m).fb = s.fb := rfl
@[simp] theorem State.setMode_keys (m : Mode) : (s.setMode m).keys = s.keys := rfl
@[simp] theorem State.setMode_mode (m : Mode) : (s.setMode m).mode = m := rfl
@[simp] theorem State.setMode_fault (m : Mode) : (s.setMode m).fault = s.fault := rfl
@[simp] theorem State.setMode_draws (m : Mode) : (s.setMode m).draws = s.draws := rfl
@[simp] theorem State.setMode_reg (m : Mode) (j : RegIdx) : (s.setMode m).reg j = s.reg j := rfl
@[simp] theorem State.setMode_memRead (m : Mode) (c : Addr) : (s.setMode m).memRead c = s.memRead c := rfl
@[simp] theorem State.setMode_ea (m : Mode) (j : Nat) : (s.setMode m).ea j = s.ea j := rfl
@[simp] theorem State.setMode_pressed (m : Mode) (c : Byte) : (s.setMode m).pressed c = s.pressed c := rfl

/-! ### `raise` -/

@[simp] theorem State.raise_mem (k : FaultKind) (a : Word) (o : Option Word) : (s.raise k a o).mem = s.mem := rfl
@[simp] theorem State.raise_v (k : FaultKind) (a : Word) (o : Option Word) : (s.raise k a o).v = s.v := rfl
@[simp] theorem State.raise_i (k : FaultKind) (a : Word) (o : Option Word) : (s.raise k a o).i = s.i := rfl
@[simp] theorem State.raise_pc (k : FaultKind) (a : Word) (o : Option Word) : (s.raise k a o).pc = s.pc := rfl
@[simp] theorem State.raise_stack (k : FaultKind) (a : Word) (o : Option Word) : (s.raise k a o).stack = s.stack := rfl
@[simp] theorem State.raise_sp (k : FaultKind) (a : Word) (o : Option Word) : (s.raise k a o).sp = s.sp := rfl
@[simp] theorem State.raise_dt (k : FaultKind) (a : Word) (o : Option Word) : (s.raise k a o).dt = s.dt := rfl
@[simp] theorem State.raise_st (k : FaultKind) (a : Word) (o : Option Word) : (s.raise k a o).st = s.st := rfl
@[simp] theorem State.raise_fb (k : FaultKind) (a : Word) (o : Option Word) : (s.raise k a o).fb = s.fb := rfl
@[simp] theorem State.raise_keys (k : FaultKind) (a : Word) (o : Option Word) : (s.raise k a o).keys = s.keys := rfl
@[simp] theorem State.raise_mode (k : FaultKind) (a : Word) (o : Option Word) : (s.raise k a o).mode = .faulted := rfl
@[simp] theorem State.raise_fault (k : FaultKind) (a : Word) (o : Option Word) : (s.raise k a o).fault = some ⟨k, a, o⟩ := rfl
@[simp] theorem State.raise_draws (k : FaultKind) (a : Word) (o : Option Word) : (s.raise k a o).draws = s.draws := rfl
@[simp] theorem State.raise_reg (k : FaultKind) (a : Word) (o : Option Word) (j : RegIdx) : (s.raise k a o).reg j = s.reg j := rfl
@[simp] theorem State.raise_memRead (k : FaultKind) (a : Word) (o : Option Word) (c : Addr) : (s.raise k a o).memRead c = s.memRead c := rfl
@[simp] theorem State.raise_ea (k : FaultKind) (a : Word) (o : Option Word) (j : Nat) : (s.raise k a o).ea j = s.ea j := rfl
@[simp] theorem State.raise_pressed (k : FaultKind) (a : Word) (o : Option Word) (c : Byte) : (s.raise k a o).pressed c = s.pressed c := rfl

/-! ### `countDraw` -/

@[simp] theorem State.countDraw_mem : (s.countDraw).mem = s.mem := rfl
@[simp] theorem State.countDraw_v : (s.countDraw).v = s.v := rfl
@[simp] theorem State.countDraw_i : (s.countDraw).i = s.i := rfl
@[simp] theorem State.countDraw_pc : (s.countDraw).pc = s.pc := rfl
@[simp] theorem State.countDraw_stack : (s.countDraw).stack = s.stack := rfl
@[simp] theorem State.countDraw_sp : (s.countDraw).sp = s.sp := rfl
@[simp] theorem State.countDraw_dt : (s.countDraw).dt = s.dt := rfl
@[simp] theorem State.countDraw_st : (s.countDraw).st = s.st := rfl
@[simp] theorem State.countDraw_fb : (s.countDraw).fb = s.fb := rfl
@[simp] theorem State.countDraw_keys : (s.countDraw).keys = s.keys := rfl
@[simp] theorem State.countDraw_mode : (s.countDraw).mode = s.mode := rfl
@[simp] theorem State.countDraw_fault : (s.countDraw).fault = s.fault := rfl
@[simp] theorem State.countDraw_draws : (s.countDraw).draws = s.draws + 1 := rfl
@[simp] theorem State.countDraw_reg (j : RegIdx) : (s.countDraw).reg j = s.reg j := rfl
@[simp] theorem State.countDraw_memRead (c : Addr) : (s.countDraw).memRead c = s.memRead c := rfl
@[simp] theorem State.countDraw_ea (j : Nat) : (s.countDraw).ea j = s.ea j := rfl
@[simp] theorem State.countDraw_pressed (c : Byte) : (s.countDraw).pressed c = s.pressed c := rfl

/-! ### `setStack` -/

@[simp] theorem State.setStack_mem (k : Vector Word 16) (n : Fin 17) : (s.setStack k n).mem = s.mem := rfl
@[simp] theorem State.setStack_v (k : Vector Word 16) (n : Fin 17) : (s.setStack k n).v = s.v := rfl
@[simp] theorem State.setStack_i (k : Vector Word 16) (n : Fin 17) : (s.setStack k n).i = s.i := rfl
@[simp] theorem State.setStack_pc (k : Vector Word 16) (n : Fin 17) : (s.setStack k n).pc = s.pc := rfl
@[simp] theorem State.setStack_stack (k : Vector Word 16) (n : Fin 17) : (s.setStack k n).stack = k := rfl
@[simp] theorem State.setStack_sp (k : Vector Word 16) (n : Fin 17) : (s.setStack k n).sp = n := rfl
@[simp] theorem State.setStack_dt (k : Vector Word 16) (n : Fin 17) : (s.setStack k n).dt = s.dt := rfl
@[simp] theorem State.setStack_st (k : Vector Word 16) (n : Fin 17) : (s.setStack k n).st = s.st := rfl
@[simp] theorem State.setStack_fb (k : Vector Word 16) (n : Fin 17) : (s.setStack k n).fb = s.fb := rfl
@[simp] theorem State.setStack_keys (k : Vector Word 16) (n : Fin 17) : (s.setStack k n).keys = s.keys := rfl
@[simp] theorem State.setStack_mode (k : Vector Word 16) (n : Fin 17) : (s.setStack k n).mode = s.mode := rfl
@[simp] theorem State.setStack_fault (k : Vector Word 16) (n : Fin 17) : (s.setStack k n).fault = s.fault := rfl
@[simp] theorem State.setStack_draws (k : Vector Word 16) (n : Fin 17) : (s.setStack k n).draws = s.draws := rfl
@[simp] theorem State.setStack_reg (k : Vector Word 16) (n : Fin 17) (j : RegIdx) : (s.setStack k n).reg j = s.reg j := rfl
@[simp] theorem State.setStack_memRead (k : Vector Word 16) (n : Fin 17) (c : Addr) : (s.setStack k n).memRead c = s.memRead c := rfl
@[simp] theorem State.setStack_ea (k : Vector Word 16) (n : Fin 17) (j : Nat) : (s.setStack k n).ea j = s.ea j := rfl
@[simp] theorem State.setStack_pressed (k : Vector Word 16) (n : Fin 17) (c : Byte) : (s.setStack k n).pressed c = s.pressed c := rfl

/-! ### `setBitmap` -/

@[simp] theorem State.setBitmap_mem (fb : Bitmap) : (s.setBitmap fb).mem = s.mem := rfl
@[simp] theorem State.setBitmap_v (fb : Bitmap) : (s.setBitmap fb).v = s.v := rfl
@[simp] theorem State.setBitmap_i (fb : Bitmap) : (s.setBitmap fb).i = s.i := rfl
@[simp] theorem State.setBitmap_pc (fb : Bitmap) : (s.setBitmap fb).pc = s.pc := rfl
@[simp] theorem State.setBitmap_stack (fb : Bitmap) : (s.setBitmap fb).stack = s.stack := rfl
@[simp] theorem State.setBitmap_sp (fb : Bitmap) : (s.setBitmap fb).sp = s.sp := rfl
@[simp] theorem State.setBitmap_dt (fb : Bitmap) : (s.setBitmap fb).dt = s.dt := rfl
@[simp] theorem State.setBitmap_st (fb : Bitmap) : (s.setBitmap fb).st = s.st := rfl
@[simp] theorem State.setBitmap_fb (fb : Bitmap) : (s.setBitmap fb).fb = fb := rfl
@[simp] theorem State.setBitmap_keys (fb : Bitmap) : (s.setBitmap fb).keys = s.keys := rfl
@[simp] theorem State.setBitmap_mode (fb : Bitmap) : (s.setBitmap fb).mode = s.mode := rfl
@[simp] theorem State.setBitmap_fault (fb : Bitmap) : (s.setBitmap fb).fault = s.fault := rfl
@[simp] theorem State.setBitmap_draws (fb : Bitmap) : (s.setBitmap fb).draws = s.draws := rfl
@[simp] theorem State.setBitmap_reg (fb : Bitmap) (j : RegIdx) : (s.setBitmap fb).reg j = s.reg j := rfl
@[simp] theorem State.setBitmap_memRead (fb : Bitmap) (c : Addr) : (s.setBitmap fb).memRead c = s.memRead c := rfl
@[simp] theorem State.setBitmap_ea (fb : Bitmap) (j : Nat) : (s.setBitmap fb).ea j = s.ea j := rfl
@[simp] theorem State.setBitmap_pressed (fb : Bitmap) (c : Byte) : (s.setBitmap fb).pressed c = s.pressed c := rfl

/-! ### `latchKey` -/

@[simp] theorem State.latchKey_mem (k : Key) (b : Bool) : (s.latchKey k b).mem = s.mem := rfl
@[simp] theorem State.latchKey_v (k : Key) (b : Bool) : (s.latchKey k b).v = s.v := rfl
@[simp] theorem State.latchKey_i (k : Key) (b : Bool) : (s.latchKey k b).i = s.i := rfl
@[simp] theorem State.latchKey_pc (k : Key) (b : Bool) : (s.latchKey k b).pc = s.pc := rfl
@[simp] theorem State.latchKey_stack (k : Key) (b : Bool) : (s.latchKey k b).stack = s.stack := rfl
@[simp] theorem State.latchKey_sp (k : Key) (b : Bool) : (s.latchKey k b).sp = s.sp := rfl
@[simp] theorem State.latchKey_dt (k : Key) (b : Bool) : (s.latchKey k b).dt = s.dt := rfl
@[simp] theorem State.latchKey_st (k : Key) (b : Bool) : (s.latchKey k b).st = s.st := rfl
@[simp] theorem State.latchKey_fb (k : Key) (b : Bool) : (s.latchKey k b).fb = s.fb := rfl
@[simp] theorem State.latchKey_keys (k : Key) (b : Bool) : (s.latchKey k b).keys = s.keys.set k.val b k.isLt := rfl
@[simp] theorem State.latchKey_mode (k : Key) (b : Bool) : (s.latchKey k b).mode = s.mode := rfl
@[simp] theorem State.latchKey_fault (k : Key) (b : Bool) : (s.latchKey k b).fault = s.fault := rfl
@[simp] theorem State.latchKey_draws (k : Key) (b : Bool) : (s.latchKey k b).draws = s.draws := rfl
@[simp] theorem State.latchKey_reg (k : Key) (b : Bool) (j : RegIdx) : (s.latchKey k b).reg j = s.reg j := rfl
@[simp] theorem State.latchKey_memRead (k : Key) (b : Bool) (c : Addr) : (s.latchKey k b).memRead c = s.memRead c := rfl
@[simp] theorem State.latchKey_ea (k : Key) (b : Bool) (j : Nat) : (s.latchKey k b).ea j = s.ea j := rfl

/-! ### `skipIf` -/

@[simp] theorem State.skipIf_mem (c : Bool) : (s.skipIf c).mem = s.mem := by
  cases c <;> rfl
@[simp] theorem State.skipIf_v (c : Bool) : (s.skipIf c).v = s.v := by
  cases c <;> rfl
@[simp] theorem State.skipIf_i (c : Bool) : (s.skipIf c).i = s.i := by
  cases c <;> rfl
@[simp] theorem State.skipIf_pc (c : Bool) : (s.skipIf c).pc = if c then s.pc + 2 else s.pc := by
  cases c <;> rfl
@[simp] theorem State.skipIf_stack (c : Bool) : (s.skipIf c).stack = s.stack := by
  cases c <;> rfl
@[simp] theorem State.skipIf_sp (c : Bool) : (s.skipIf c).sp = s.sp := by
  cases c <;> rfl
@[simp] theorem State.skipIf_dt (c : Bool) : (s.skipIf c).dt = s.dt := by
  cases c <;> rfl
@[simp] theorem State.skipIf_st (c : Bool) : (s.skipIf c).st = s.st := by
  cases c <;> rfl
@[simp] theorem State.skipIf_fb (c : Bool) : (s.skipIf c).fb = s.fb := by
  cases c <;> rfl
@[simp] theorem State.skipIf_keys (c : Bool) : (s.skipIf c).keys = s.keys := by
  cases c <;> rfl
@[simp] theorem State.skipIf_mode (c : Bool) : (s.skipIf c).mode = s.mode := by
  cases c <;> rfl
@[simp] theorem State.skipIf_fault (c : Bool) : (s.skipIf c).fault = s.fault := by
  cases c <;> rfl
@[simp] theorem State.skipIf_draws (c : Bool) : (s.skipIf c).draws = s.draws := by
  cases c <;> rfl
@[simp] theorem State.skipIf_reg (c : Bool) (j : RegIdx) : (s.skipIf c).reg j = s.reg j := by
  cases c <;> rfl
@[simp] theorem State.skipIf_memRead (c : Bool) (a : Addr) : (s.skipIf c).memRead a = s.memRead a := by
  cases c <;> rfl

end Sys2Proof.Machine
end

