-- ==== Sys2Proof/Laws/Memory.lean ====
section
/-!
SUPPORT. The laws of memory: read after write, canonical form kept by every memory operation, the reset contents, and the
images that `load` writes.
-/
namespace Sys2Proof.Machine

/-! ## Unlisted addresses -/

theorem Memory.unlisted_default {a : Nat} (h : a < 80) : Memory.unlisted a = defaultFontBytes.getD a 0x00 := by
  simp [Memory.unlisted, h]

@[simp] theorem Memory.unlisted_zero {a : Nat} (h : 80 ≤ a) : Memory.unlisted a = 0x00 := by
  simp [Memory.unlisted, Nat.not_lt.mpr h]

/-- Right after reset with the default `FONT` every address reads its reset contents (R16, R32). -/
theorem State.memRead_reset (a : Addr) : State.reset.memRead a = Memory.unlisted a.toNat := rfl

/-! ## Reads of the pieces of a write -/

theorem Memory.read_insertCell (m : Memory) (a c : Nat) (b : Byte) (h : ∀ d ∈ m, d.1 ≠ a) :
    (m.insertCell a b).read c = if a = c then b else m.read c := by
  induction m with
  | nil => simp [Memory.insertCell, Memory.read]
  | cons d m ih =>
    obtain ⟨k, e⟩ := d
    have hk : k ≠ a := h (k, e) (by simp)
    have ih := ih fun d hd => h d (by simp [hd])
    unfold Memory.insertCell
    split
    · simp [Memory.read]
    · simp only [Memory.read, ih]
      by_cases hkc : k = c
      · have : a ≠ c := fun hac => hk (hkc.trans hac.symm)
        simp [hkc, this]
      · simp [hkc]

theorem Memory.mem_eraseCell (m : Memory) (a : Nat) (d : Host.Cell) : d ∈ m.eraseCell a ↔ d ∈ m ∧ d.1 ≠ a := by
  simp [Memory.eraseCell]

theorem Memory.read_eraseCell (m : Memory) (a c : Nat) :
    (m.eraseCell a).read c = if a = c then Memory.unlisted a else m.read c := by
  induction m with
  | nil => by_cases h : a = c <;> simp [Memory.eraseCell, Memory.read, h]
  | cons d m ih =>
    obtain ⟨k, e⟩ := d
    by_cases hk : k = a
    · subst hk
      have : Memory.eraseCell ((k, e) :: m) k = Memory.eraseCell m k := by simp [Memory.eraseCell]
      rw [this, ih]
      by_cases h : k = c <;> simp [Memory.read, h]
    · have : Memory.eraseCell ((k, e) :: m) a = (k, e) :: Memory.eraseCell m a := by simp [Memory.eraseCell, hk]
      rw [this]
      simp only [Memory.read, ih]
      by_cases hkc : k = c
      · have : a ≠ c := fun h => hk (hkc.trans h.symm)
        simp [hkc, this]
      · simp [hkc]

/-! ## Read after write -/

/-- All that one write does to a read (R49 (b), R54). -/
theorem Memory.read_write (m : Memory) (a c : Nat) (b : Byte) :
    (m.write a b).read c = if a = c then b else m.read c := by
  unfold Memory.write
  split
  · next hb => rw [Memory.read_eraseCell, hb]
  · rw [Memory.read_insertCell _ _ _ _ fun d hd => ((Memory.mem_eraseCell m a d).1 hd).2, Memory.read_eraseCell]
    by_cases h : a = c <;> simp [h]

@[simp] theorem Memory.read_write_same (m : Memory) (a : Nat) (b : Byte) : (m.write a b).read a = b := by
  simp [Memory.read_write]

theorem Memory.read_write_ne (m : Memory) {a c : Nat} (b : Byte) (h : a ≠ c) : (m.write a b).read c = m.read c := by
  simp [Memory.read_write, h]

/-- All that `memWrite` does to `memRead`. -/
theorem State.memRead_memWrite (s : State) (a c : Addr) (b : Byte) :
    (s.memWrite a b).memRead c = if a = c then b else s.memRead c := by
  simp [State.memRead, State.memWrite, Memory.read_write, BitVec.toNat_inj]

@[simp] theorem State.memRead_memWrite_same (s : State) (a : Addr) (b : Byte) : (s.memWrite a b).memRead a = b := by
  simp [State.memRead_memWrite]

theorem State.memRead_memWrite_ne (s : State) {a c : Addr} (b : Byte) (h : a ≠ c) :
    (s.memWrite a b).memRead c = s.memRead c := by
  simp [State.memRead_memWrite, h]

/-! ## Canonical form -/

theorem Memory.mem_insertCell (m : Memory) (a : Nat) (b : Byte) (d : Host.Cell) :
    d ∈ m.insertCell a b ↔ d = (a, b) ∨ d ∈ m := by
  induction m with
  | nil => simp [Memory.insertCell]
  | cons e m ih =>
    obtain ⟨k, c⟩ := e
    unfold Memory.insertCell
    split
    · simp
    · simp only [List.mem_cons, ih]
      tauto

theorem Memory.pairwise_insertCell (m : Memory) (a : Nat) (b : Byte) (h : ∀ d ∈ m, d.1 ≠ a)
    (hm : m.Pairwise fun c d => c.1 < d.1) : (m.insertCell a b).Pairwise fun c d => c.1 < d.1 := by
  induction m with
  | nil => simp [Memory.insertCell]
  | cons e m ih =>
    obtain ⟨k, c⟩ := e
    obtain ⟨hk, hm'⟩ := List.pairwise_cons.1 hm
    unfold Memory.insertCell
    split
    · next hak =>
      refine List.pairwise_cons.2 ⟨fun d hd => ?_, hm⟩
      rcases List.mem_cons.1 hd with rfl | hd
      · exact hak
      · exact Nat.lt_trans hak (hk d hd)
    · next hak =>
      have hka : k < a := by
        have : k ≠ a := h (k, c) (by simp)
        omega
      refine List.pairwise_cons.2 ⟨fun d hd => ?_, ih (fun d hd => h d (by simp [hd])) hm'⟩
      rcases (Memory.mem_insertCell m a b d).1 hd with rfl | hd
      · exact hka
      · exact hk d hd

/-- A write inside memory keeps the canonical form. -/
theorem Memory.wf_write {m : Memory} {a : Nat} (b : Byte) (hm : m.wf) (ha : a < 4096) : (m.write a b).wf := by
  have hp : (m.eraseCell a).Pairwise fun c d => c.1 < d.1 := hm.1.filter _
  unfold Memory.write
  split
  · exact ⟨hp, fun c hc => hm.2 c ((Memory.mem_eraseCell m a c).1 hc).1⟩
  · next hb =>
    refine ⟨Memory.pairwise_insertCell _ _ _ (fun d hd => ((Memory.mem_eraseCell m a d).1 hd).2) hp, fun c hc => ?_⟩
    rcases (Memory.mem_insertCell _ _ _ _).1 hc with rfl | hc
    · exact ⟨ha, hb⟩
    · exact hm.2 c ((Memory.mem_eraseCell m a c).1 hc).1

theorem State.wf_memWrite {s : State} (a : Addr) (b : Byte) (h : s.mem.wf) : (s.memWrite a b).mem.wf :=
  Memory.wf_write b h a.isLt

theorem State.wf_reset : State.reset.mem.wf := by decide

/-! ## Program images -/

theorem Memory.wf_writeBytes (bytes : List Byte) {m : Memory} {a : Nat} (hm : m.wf) (ha : a + bytes.length ≤ 4096) :
    (m.writeBytes a bytes).wf := by
  induction bytes generalizing m a with
  | nil => exact hm
  | cons b bs ih =>
    simp only [List.length_cons] at ha
    exact ih (Memory.wf_write b hm (by omega)) (by omega)

/-- All that `writeBytes` does to a read: the image inside its range, the old byte elsewhere. -/
theorem Memory.read_writeBytes (bytes : List Byte) (m : Memory) (a c : Nat) :
    (m.writeBytes a bytes).read c =
      if a ≤ c ∧ c < a + bytes.length then bytes.getD (c - a) 0x00 else m.read c := by
  induction bytes generalizing m a with
  | nil => simp [Memory.writeBytes]
  | cons b bs ih =>
    simp only [Memory.writeBytes, ih, Memory.read_write, List.length_cons]
    by_cases h : a = c
    · subst h
      simp
    · by_cases h' : a + 1 ≤ c ∧ c < a + 1 + bs.length
      · have h2 : a ≤ c ∧ c < a + (bs.length + 1) := by omega
        have h3 : c - a = c - (a + 1) + 1 := by omega
        rw [if_pos h', if_pos h2, h3, List.getD_cons_succ]
      · have h2 : ¬(a ≤ c ∧ c < a + (bs.length + 1)) := by omega
        rw [if_neg h', if_neg h2, if_neg h]

/-! ## Memory after reset, for any `FONT` (R5, R16) -/

/-- All that a read of memory after reset gives: the glyph bytes below `0x050`, zero above. -/
theorem Memory.read_ofFont (f : Font) (a : Nat) : (Memory.ofFont f).read a = f.toList.getD a 0x00 := by
  rw [Memory.ofFont, Memory.read_writeBytes]
  simp only [Vector.length_toList, Nat.zero_le, true_and, Nat.zero_add, Nat.sub_zero]
  split
  · rfl
  · next h =>
    rw [List.getD_eq_default _ _ (by simpa using h)]
    exact Memory.unlisted_zero (by omega)

theorem Memory.wf_ofFont (f : Font) : (Memory.ofFont f).wf :=
  Memory.wf_writeBytes _ (by decide) (by simp)

/-- Writing to empty memory what its addresses read as lists nothing. -/
theorem Memory.writeBytes_unlisted (bytes : List Byte) (a : Nat)
    (h : ∀ k < bytes.length, bytes.getD k 0x00 = Memory.unlisted (a + k)) : Memory.writeBytes [] a bytes = [] := by
  induction bytes generalizing a with
  | nil => rfl
  | cons b bs ih =>
    have hb : b = Memory.unlisted a := by simpa using h 0 (by simp)
    have hw : Memory.write [] a b = [] := by simp [Memory.write, Memory.eraseCell, hb]
    rw [Memory.writeBytes, hw]
    refine ih (a + 1) fun k hk => ?_
    simpa [Nat.add_assoc, Nat.add_comm 1 k] using h (k + 1) (by simpa using hk)

theorem Memory.ofFont_default : Memory.ofFont defaultFont = [] :=
  Memory.writeBytes_unlisted _ _ fun k hk => by
    rw [Nat.zero_add, Memory.unlisted_default (by simpa using hk)]
    rfl

/-- With the default `FONT` the state after reset is `State.reset`. -/
theorem State.resetWith_default : State.resetWith defaultFont = State.reset := by
  rw [State.resetWith, Memory.ofFont_default]
  rfl

/-- Right after reset, for any `FONT` (R32). -/
theorem State.memRead_resetWith (f : Font) (a : Addr) : (State.resetWith f).memRead a = f.toList.getD a.toNat 0x00 :=
  Memory.read_ofFont f a.toNat

/-- The same after the host's reset of any state (R240). -/
theorem State.memRead_hostReset (s : State) (f : Font) (a : Addr) :
    (s.hostReset f).memRead a = f.toList.getD a.toNat 0x00 := Memory.read_ofFont f a.toNat

/-- Reset does not look at the state before it, but for the model's count of draws (R240). -/
theorem State.hostReset_eq (s : State) (f : Font) : s.hostReset f = { State.resetWith f with draws := s.draws } := rfl

end Sys2Proof.Machine
end

