-- ==== Sys2Proof/Laws/Registers.lean ====
section
/-!
SUPPORT. The laws of the data registers, the flag writes, the timers and the register ranges of `Fx55` and `Fx65`.
-/
namespace Sys2Proof.Machine

/-! ## Registers -/

/-- All that `setReg` does to `reg` (R11: no alias, none hard-wired). -/
theorem State.reg_setReg (s : State) (r j : RegIdx) (b : Byte) : (s.setReg r b).reg j = if r = j then b else s.reg j := by
  simp only [State.reg, State.setReg, Vector.get_eq_getElem, Vector.getElem_set, Fin.ext_iff]

@[simp] theorem State.reg_setReg_same (s : State) (r : RegIdx) (b : Byte) : (s.setReg r b).reg r = b := by
  simp [State.reg_setReg]

theorem State.reg_setReg_ne (s : State) {r j : RegIdx} (b : Byte) (h : r ≠ j) : (s.setReg r b).reg j = s.reg j := by
  simp [State.reg_setReg, h]

/-- All that a flag-writing instruction does to the registers (R88): the result stands when `x` is `VF`. -/
theorem State.reg_writeFlagThenResult (s : State) (x j : RegIdx) (f b : Byte) :
    (s.writeFlagThenResult x f b).reg j = if x = j then b else if flagReg = j then f else s.reg j := by
  simp [State.writeFlagThenResult, State.reg_setReg]

/-! ## Flags -/

@[simp] theorem flagByte_true : flagByte true = 0x01 := rfl

@[simp] theorem flagByte_false : flagByte false = 0x00 := rfl

/-- A flag as a number (R12: `0x00` or `0x01`). -/
@[simp] theorem flagByte_toNat (c : Bool) : (flagByte c).toNat = if c then 1 else 0 := by cases c <;> rfl

theorem flagByte_eq_one {c : Bool} : flagByte c = 0x01 ↔ c = true := by cases c <;> decide

theorem flagByte_eq_zero {c : Bool} : flagByte c = 0x00 ↔ c = false := by cases c <;> decide

/-! ## Timers -/

/-- All that a countdown does (R215): down by one, held at 0. -/
@[simp] theorem countDown_toNat (b : Byte) : (countDown b).toNat = b.toNat - 1 := by
  unfold countDown
  split
  · next h => simp [h]
  · next h =>
    have hb := b.isLt
    have : b.toNat ≠ 0 := fun h0 => h (BitVec.eq_of_toNat_eq h0)
    rw [BitVec.toNat_sub]
    simp
    omega

@[simp] theorem countDown_zero : countDown 0x00 = 0x00 := rfl

/-! ## Register ranges -/

theorem mem_regsUpTo {x k : RegIdx} : k ∈ regsUpTo x ↔ k ≤ x := by simp [regsUpTo]

theorem nodup_regsUpTo (x : RegIdx) : (regsUpTo x).Nodup := (List.nodup_finRange 16).filter _

/-! ### `loadRegs` -/

theorem State.loadRegs_keeps (ks : List RegIdx) (s : State) :
    s.loadRegs ks = { s with v := (s.loadRegs ks).v } := by
  induction ks generalizing s with
  | nil => rfl
  | cons k ks ih =>
    unfold State.loadRegs
    rw [ih]
    simp [State.setReg]

/-- All that `loadRegs` does to a register: the listed ones hold the bytes of their addresses. -/
theorem State.reg_loadRegs (ks : List RegIdx) (s : State) (j : RegIdx) :
    (s.loadRegs ks).reg j = if j ∈ ks then s.memRead (s.ea j.val) else s.reg j := by
  induction ks generalizing s with
  | nil => simp [State.loadRegs]
  | cons k ks ih =>
    unfold State.loadRegs
    rw [ih]
    simp only [State.setReg_memRead, State.setReg_ea, State.reg_setReg, List.mem_cons]
    by_cases hj : j ∈ ks
    · simp [hj]
    · by_cases hk : k = j
      · subst hk; simp [hj]
      · simp [hj, hk, Ne.symm hk]

/-! ### `storeRegs` -/

theorem State.storeRegs_keeps (ks : List RegIdx) (s : State) :
    s.storeRegs ks = { s with mem := (s.storeRegs ks).mem } := by
  induction ks generalizing s with
  | nil => rfl
  | cons k ks ih =>
    unfold State.storeRegs
    rw [ih]
    simp [State.memWrite]

/-- The data address as a number (R43). -/
@[simp] theorem State.ea_toNat (s : State) (k : Nat) : (s.ea k).toNat = (s.i.toNat + k) % 4096 := by
  simp [State.ea]

/-- Sixteen consecutive data addresses are distinct. -/
theorem State.ea_inj (s : State) {j k : Nat} (hj : j < 16) (hk : k < 16) (h : s.ea j = s.ea k) : j = k := by
  have := congrArg BitVec.toNat h
  simp only [State.ea_toNat] at this
  omega

/-- Other addresses than those of the listed registers keep their bytes. -/
theorem State.memRead_storeRegs_ne (ks : List RegIdx) (s : State) (a : Addr) (h : ∀ k ∈ ks, s.ea k.val ≠ a) :
    (s.storeRegs ks).memRead a = s.memRead a := by
  induction ks generalizing s with
  | nil => rfl
  | cons k ks ih =>
    unfold State.storeRegs
    rw [ih _ fun j hj => by simpa using h j (by simp [hj])]
    exact State.memRead_memWrite_ne _ _ (h k (by simp))

/-- The address of a listed register holds it. -/
theorem State.memRead_storeRegs (ks : List RegIdx) (s : State) (hn : ks.Nodup) {k : RegIdx} (hk : k ∈ ks) :
    (s.storeRegs ks).memRead (s.ea k.val) = s.reg k := by
  induction ks generalizing s with
  | nil => simp at hk
  | cons j ks ih =>
    obtain ⟨hj, hn⟩ := List.nodup_cons.1 hn
    unfold State.storeRegs
    rcases List.mem_cons.1 hk with rfl | hk
    · rw [State.memRead_storeRegs_ne]
      · simp
      · intro l hl he
        have : l = k := Fin.ext (State.ea_inj s l.isLt k.isLt (by simpa using he))
        exact hj (this ▸ hl)
    · have := ih (s.memWrite (s.ea j.val) (s.reg j)) hn hk
      simpa using this

theorem State.wf_storeRegs (ks : List RegIdx) {s : State} (h : s.mem.wf) : (s.storeRegs ks).mem.wf := by
  induction ks generalizing s with
  | nil => exact h
  | cons k ks ih => exact ih (State.wf_memWrite _ _ h)

end Sys2Proof.Machine
end

