-- ==== Sys2Proof/Laws/Bitmap.lean ====
section
/-!
SUPPORT. The laws of the bitmap controller: what a cell reads after a write, a pixel, a row and a whole sprite.
-/
namespace Sys2Proof.Machine

/-- All that `setCell` does to a cell. -/
theorem Bitmap.cell_setCell (fb : Bitmap) (py qy : Fin 32) (px qx : Fin 64) (b : Bool) :
    (Bitmap.setCell fb py px b).cell qy qx = if py = qy ∧ px = qx then b else Bitmap.cell fb qy qx := by
  simp only [Bitmap.cell, Bitmap.setCell, Vector.get_eq_getElem, Vector.getElem_set, Fin.ext_iff]
  by_cases hy : py.val = qy.val
  · simp [hy, Vector.getElem_set]
  · simp [hy]

/-- Every cell of the clear bitmap is 0 (R161). -/
@[simp] theorem cell_clearBitmap (py : Fin 32) (px : Fin 64) : clearBitmap.cell py px = false := by
  simp [Bitmap.cell, clearBitmap, Vector.get_eq_getElem]

/-- All that `setPixel` does to a cell (R162). -/
theorem cell_setPixel (fb : Bitmap) (cx cy : Nat) (py : Fin 32) (px : Fin 64) :
    (setPixel fb cx cy).1.cell py px =
      if row cy = py ∧ column cx = px then !fb.cell py px else fb.cell py px := by
  simp only [setPixel, Bitmap.cell_setCell]
  by_cases h : row cy = py ∧ column cx = px
  · simp [h]
  · simp [h]

/-- Columns of one sprite row are distinct: eight consecutive ones, modulo 64. -/
theorem column_inj {cx c d : Nat} (hc : c < 8) (hd : d < 8) (h : column (cx + c) = column (cx + d)) : c = d := by
  have := congrArg Fin.val h
  simp only [column] at this
  omega

/-- All that the pixels of one sprite byte do: the cells under its 1 bits toggle, the others stay, and the answer says
whether a toggled cell was set. -/
theorem drawColumns_spec (cols : List Nat) (fb : Bitmap) (cx cy : Nat) (b : Byte) (hn : cols.Nodup)
    (hc : ∀ c ∈ cols, c < 8) :
    (∀ py px, (drawColumns fb cx cy b cols).1.cell py px =
      (fb.cell py px ^^ decide (row cy = py ∧ ∃ c ∈ cols, b.getLsbD (7 - c) = true ∧ column (cx + c) = px))) ∧
    ((drawColumns fb cx cy b cols).2 = true ↔
      ∃ c ∈ cols, b.getLsbD (7 - c) = true ∧ fb.cell (row cy) (column (cx + c)) = true) := by
  induction cols generalizing fb with
  | nil => simp [drawColumns]
  | cons c cols ih =>
    obtain ⟨hcn, hn⟩ := List.nodup_cons.1 hn
    have hlt : ∀ d ∈ cols, d < 8 := fun d hd => hc d (by simp [hd])
    have hne : ∀ d ∈ cols, column (cx + d) ≠ column (cx + c) := fun d hd he =>
      hcn ((column_inj (hlt d hd) (hc c (by simp)) he) ▸ hd)
    unfold drawColumns
    split
    · next hb =>
      obtain ⟨ih1, ih2⟩ := ih (setPixel fb (cx + c) cy).1 hn hlt
      refine ⟨fun py px => ?_, ?_⟩
      · simp only [ih1, cell_setPixel]
        by_cases hy : row cy = py
        · by_cases hx : column (cx + c) = px
          · have : ¬∃ d ∈ cols, b.getLsbD (7 - d) = true ∧ column (cx + d) = px := by
              rintro ⟨d, hd, -, he⟩
              exact hne d hd (he.trans hx.symm)
            simp [hy, hx, hb, this]
          · simp [hy, hx]
        · simp [hy]
      · simp only [Bool.or_eq_true, ih2, cell_setPixel, List.exists_mem_cons_iff, hb, true_and]
        refine or_congr (by simp [setPixel]) ⟨?_, ?_⟩
        · rintro ⟨d, hd, hbd, h⟩
          exact ⟨d, hd, hbd, by simpa [Ne.symm (hne d hd)] using h⟩
        · rintro ⟨d, hd, hbd, h⟩
          exact ⟨d, hd, hbd, by simpa [Ne.symm (hne d hd)] using h⟩
    · next hb =>
      obtain ⟨ih1, ih2⟩ := ih fb hn hlt
      refine ⟨fun py px => ?_, ?_⟩
      · simp [ih1, hb]
      · simp [ih2, hb]

/-- A sprite row of byte `b` drawn at `(cx, cy)` covers a cell with a 1 bit (R163). -/
def RowCovers (cx cy : Nat) (b : Byte) (py : Fin 32) (px : Fin 64) : Prop :=
  row cy = py ∧ ∃ c < 8, b.getLsbD (7 - c) = true ∧ column (cx + c) = px

/-- All that one sprite row does. -/
theorem drawRow_spec (fb : Bitmap) (cx cy : Nat) (b : Byte) :
    (∀ py px, (RowCovers cx cy b py px → (drawRow fb cx cy b).1.cell py px = !fb.cell py px) ∧
      (¬RowCovers cx cy b py px → (drawRow fb cx cy b).1.cell py px = fb.cell py px)) ∧
    ((drawRow fb cx cy b).2 = true ↔
      ∃ c < 8, b.getLsbD (7 - c) = true ∧ fb.cell (row cy) (column (cx + c)) = true) := by
  have hmem : ∀ c : Nat, c ∈ [0, 1, 2, 3, 4, 5, 6, 7] ↔ c < 8 := by
    intro c
    simp
    omega
  obtain ⟨h1, h2⟩ := drawColumns_spec [0, 1, 2, 3, 4, 5, 6, 7] fb cx cy b (by decide) (fun c h => (hmem c).1 h)
  refine ⟨fun py px => ?_, by simpa only [drawRow, hmem] using h2⟩
  have hcov : (row cy = py ∧ ∃ c ∈ [0, 1, 2, 3, 4, 5, 6, 7], b.getLsbD (7 - c) = true ∧ column (cx + c) = px) ↔
      RowCovers cx cy b py px := by
    simp only [hmem, RowCovers]
  have := h1 py px
  refine ⟨fun h => ?_, fun h => ?_⟩
  · rw [drawRow, this, decide_eq_true (hcov.2 h), Bool.xor_true]
  · rw [drawRow, this, decide_eq_false (fun h' => h (hcov.1 h')), Bool.xor_false]

/-- The bytes `bs` of a sprite drawn at `(cx, cy)` cover a cell with a 1 bit (R163). -/
def BytesCover (cx cy : Nat) (bs : List Byte) (py : Fin 32) (px : Fin 64) : Prop :=
  ∃ k < bs.length, ∃ c < 8, (bs.getD k 0x00).getLsbD (7 - c) = true ∧ column (cx + c) = px ∧ row (cy + k) = py

theorem bytesCover_cons (cx cy : Nat) (b : Byte) (bs : List Byte) (py : Fin 32) (px : Fin 64) :
    BytesCover cx cy (b :: bs) py px ↔
      RowCovers cx cy b py px ∨ BytesCover cx (cy + 1) bs py px := by
  constructor
  · rintro ⟨k, hk, c, hc, hb, hx, hy⟩
    cases k with
    | zero => exact .inl ⟨by simpa using hy, c, hc, by simpa using hb, hx⟩
    | succ k =>
      refine .inr ⟨k, by simpa using hk, c, hc, by simpa using hb, hx, ?_⟩
      rwa [show cy + 1 + k = cy + (k + 1) by omega]
  · rintro (⟨hy, c, hc, hb, hx⟩ | ⟨k, hk, c, hc, hb, hx, hy⟩)
    · exact ⟨0, by simp, c, hc, by simpa using hb, hx, by simpa using hy⟩
    · refine ⟨k + 1, by simpa using hk, c, hc, by simpa using hb, hx, ?_⟩
      rwa [show cy + (k + 1) = cy + 1 + k by omega]

/-- All that a sprite of at most 32 rows does: the cells it covers toggle, the others stay, and the answer says whether a
covered cell was set (R163). -/
theorem drawSprite_spec (bs : List Byte) (fb : Bitmap) (cx cy : Nat) (hl : bs.length ≤ 32) :
    (∀ py px, ((drawSprite fb cx cy bs).1.cell py px = !fb.cell py px ∧ BytesCover cx cy bs py px) ∨
      ((drawSprite fb cx cy bs).1.cell py px = fb.cell py px ∧ ¬BytesCover cx cy bs py px)) ∧
    ((drawSprite fb cx cy bs).2 = true ↔ ∃ py px, BytesCover cx cy bs py px ∧ fb.cell py px = true) := by
  induction bs generalizing fb cy with
  | nil => simp [drawSprite, BytesCover]
  | cons b bs ih =>
    simp only [List.length_cons] at hl
    obtain ⟨r1, r2⟩ := drawRow_spec fb cx cy b
    obtain ⟨i1, i2⟩ := ih (drawRow fb cx cy b).1 (cy + 1) (by omega)
    have hdisj : ∀ px, ¬BytesCover cx (cy + 1) bs (row cy) px := by
      rintro px ⟨k, hk, c, -, -, -, hy⟩
      have := congrArg Fin.val hy
      simp only [row] at this
      omega
    simp only [drawSprite, bytesCover_cons]
    refine ⟨fun py px => ?_, ?_⟩
    · by_cases hR : RowCovers cx cy b py px
      · have hnot : ¬BytesCover cx (cy + 1) bs py px := hR.1 ▸ hdisj px
        rcases i1 py px with ⟨-, h⟩ | ⟨h, -⟩
        · exact absurd h hnot
        · exact .inl ⟨h.trans ((r1 py px).1 hR), .inl hR⟩
      · rcases i1 py px with ⟨h, h'⟩ | ⟨h, h'⟩
        · exact .inl ⟨by rw [h, (r1 py px).2 hR], .inr h'⟩
        · exact .inr ⟨h.trans ((r1 py px).2 hR), fun h => h.elim hR h'⟩
    · simp only [Bool.or_eq_true, r2, i2]
      constructor
      · rintro (⟨c, hc, hb, h⟩ | ⟨py, px, hcov, h⟩)
        · exact ⟨_, _, .inl ⟨rfl, c, hc, hb, rfl⟩, h⟩
        · refine ⟨py, px, .inr hcov, ?_⟩
          have : ¬RowCovers cx cy b py px := fun hR => hdisj px (hR.1 ▸ hcov)
          simpa [(r1 py px).2 this] using h
      · rintro ⟨py, px, ⟨rfl, c, hc, hb, rfl⟩ | hcov, h⟩
        · exact .inl ⟨c, hc, hb, h⟩
        · refine .inr ⟨py, px, hcov, ?_⟩
          have : ¬RowCovers cx cy b py px := fun hR => hdisj px (hR.1 ▸ hcov)
          simpa [(r1 py px).2 this] using h

/-- The sprite of `n` bytes has `n` bytes. -/
@[simp] theorem State.length_spriteBytes (s : State) (n : Nat) : (s.spriteBytes n).length = n := by
  simp [State.spriteBytes]

/-- Byte `k` of a sprite is the byte at `EA(k)` (R163). -/
theorem State.getD_spriteBytes (s : State) {n k : Nat} (h : k < n) :
    (s.spriteBytes n).getD k 0x00 = s.memRead (s.ea k) := by
  simp [State.spriteBytes, List.getD_eq_getElem?_getD, h]

end Sys2Proof.Machine
end

