-- ==== Sys2Proof/Laws/Decode.lean ====
section
/-!
SUPPORT. The laws of the encoding: the fields of each format (R61, R62), the two bytes of a word (R41), and a word put
together again from its fields.
-/
namespace Sys2Proof

/-! ## Fields of the formats (R62) -/

@[simp] theorem fieldH_formNnn (h : BitVec 4) (nnn : Addr) : fieldH (formNnn h nnn) = h.toNat := by
  have : (formNnn h nnn).extractLsb' 12 4 = h := by
    apply BitVec.eq_of_getLsbD_eq
    intro i hi
    simp only [formNnn, BitVec.getLsbD_extractLsb', BitVec.getLsbD_append]
    simp [hi]
  simp [fieldH, this]

@[simp] theorem fieldNnn_formNnn (h : BitVec 4) (nnn : Addr) : fieldNnn (formNnn h nnn) = nnn := by
  apply BitVec.eq_of_getLsbD_eq
  intro i hi
  simp only [fieldNnn, formNnn, BitVec.getLsbD_extractLsb', BitVec.getLsbD_append]
  simp [hi]

@[simp] theorem fieldH_formXkk (h : BitVec 4) (x : RegIdx) (kk : Byte) : fieldH (formXkk h x kk) = h.toNat := by
  have : (formXkk h x kk).extractLsb' 12 4 = h := by
    apply BitVec.eq_of_getLsbD_eq
    intro i hi
    have : ¬ 12 + i < 8 := by omega
    have : ¬ 12 + i - 8 < 4 := by omega
    have : 12 + i - 8 - 4 = i := by omega
    simp only [formXkk, BitVec.getLsbD_extractLsb', BitVec.getLsbD_append]
    simp [*]
  simp [fieldH, this]

@[simp] theorem fieldX_formXkk (h : BitVec 4) (x : RegIdx) (kk : Byte) : fieldX (formXkk h x kk) = x := by
  have : (formXkk h x kk).extractLsb' 8 4 = BitVec.ofFin x := by
    apply BitVec.eq_of_getLsbD_eq
    intro i hi
    simp only [formXkk, BitVec.getLsbD_extractLsb', BitVec.getLsbD_append]
    simp [hi]
  simp [fieldX, this]

@[simp] theorem fieldKk_formXkk (h : BitVec 4) (x : RegIdx) (kk : Byte) : fieldKk (formXkk h x kk) = kk := by
  apply BitVec.eq_of_getLsbD_eq
  intro i hi
  simp only [fieldKk, formXkk, BitVec.getLsbD_extractLsb', BitVec.getLsbD_append]
  simp [hi]

@[simp] theorem fieldH_formXyn (h : BitVec 4) (x y : RegIdx) (n : BitVec 4) : fieldH (formXyn h x y n) = h.toNat := by
  have : (formXyn h x y n).extractLsb' 12 4 = h := by
    apply BitVec.eq_of_getLsbD_eq
    intro i hi
    have : ¬ 12 + i < 4 := by omega
    have : ¬ 12 + i - 4 < 4 := by omega
    have : ¬ 12 + i - 4 - 4 < 4 := by omega
    have : 12 + i - 4 - 4 - 4 = i := by omega
    simp only [formXyn, BitVec.getLsbD_extractLsb', BitVec.getLsbD_append]
    simp [*]
  simp [fieldH, this]

@[simp] theorem fieldX_formXyn (h : BitVec 4) (x y : RegIdx) (n : BitVec 4) : fieldX (formXyn h x y n) = x := by
  have : (formXyn h x y n).extractLsb' 8 4 = BitVec.ofFin x := by
    apply BitVec.eq_of_getLsbD_eq
    intro i hi
    have : ¬ 8 + i < 4 := by omega
    have : ¬ 8 + i - 4 < 4 := by omega
    have : 8 + i - 4 - 4 = i := by omega
    simp only [formXyn, BitVec.getLsbD_extractLsb', BitVec.getLsbD_append]
    simp [*]
  simp [fieldX, this]

@[simp] theorem fieldY_formXyn (h : BitVec 4) (x y : RegIdx) (n : BitVec 4) : fieldY (formXyn h x y n) = y := by
  have : (formXyn h x y n).extractLsb' 4 4 = BitVec.ofFin y := by
    apply BitVec.eq_of_getLsbD_eq
    intro i hi
    simp only [formXyn, BitVec.getLsbD_extractLsb', BitVec.getLsbD_append]
    simp [hi]
  simp [fieldY, this]

@[simp] theorem fieldN_formXyn (h : BitVec 4) (x y : RegIdx) (n : BitVec 4) : fieldN (formXyn h x y n) = n.toNat := by
  have : (formXyn h x y n).extractLsb' 0 4 = n := by
    apply BitVec.eq_of_getLsbD_eq
    intro i hi
    simp only [formXyn, BitVec.getLsbD_extractLsb', BitVec.getLsbD_append]
    simp [hi]
  simp [fieldN, this]

/-! ## A word from its fields -/

/-- A word is its `h`, `x`, `y`, `n` fields put together. -/
theorem formXyn_fields (w : Word) : formXyn (w.extractLsb' 12 4) (fieldX w) (fieldY w) (w.extractLsb' 0 4) = w := by
  apply BitVec.eq_of_getLsbD_eq
  intro i hi
  simp only [formXyn, fieldX, fieldY, BitVec.ofFin_toFin, BitVec.getLsbD_append, BitVec.getLsbD_extractLsb']
  by_cases h1 : i < 4
  · simp [h1]
  · by_cases h2 : i - 4 < 4
    · simp [h1, h2, show 4 + (i - 4) = i by omega]
    · by_cases h3 : i - 4 - 4 < 4
      · simp [h1, h2, h3, show 8 + (i - 4 - 4) = i by omega]
      · simp [h1, h2, h3, show 12 + (i - 4 - 4 - 4) = i by omega, show i - 4 - 4 - 4 < 4 by omega]

/-- A word is its `h`, `x`, `kk` fields put together. -/
theorem formXkk_fields (w : Word) : formXkk (w.extractLsb' 12 4) (fieldX w) (fieldKk w) = w := by
  apply BitVec.eq_of_getLsbD_eq
  intro i hi
  simp only [formXkk, fieldX, fieldKk, BitVec.ofFin_toFin, BitVec.getLsbD_append, BitVec.getLsbD_extractLsb']
  by_cases h1 : i < 8
  · simp [h1]
  · by_cases h2 : i - 8 < 4
    · simp [h1, h2, show 8 + (i - 8) = i by omega]
    · simp [h1, h2, show 12 + (i - 8 - 4) = i by omega, show i - 8 - 4 < 4 by omega]

/-- A word is its `h`, `nnn` fields put together. -/
theorem formNnn_fields (w : Word) : formNnn (w.extractLsb' 12 4) (fieldNnn w) = w := by
  apply BitVec.eq_of_getLsbD_eq
  intro i hi
  simp only [formNnn, fieldNnn, BitVec.getLsbD_append, BitVec.getLsbD_extractLsb']
  by_cases h1 : i < 12
  · simp [h1]
  · simp [h1, show 12 + (i - 12) = i by omega, show i - 12 < 4 by omega]

/-! ## Bytes of a word (R41) -/

/-- A word is its two bytes put together, high byte first. -/
@[simp] theorem wordOfBytes_bytes (w : Word) : wordOfBytes (highByte w) (lowByte w) = w := by
  apply BitVec.eq_of_getLsbD_eq
  intro i hi
  simp only [wordOfBytes, highByte, lowByte, BitVec.getLsbD_append, BitVec.getLsbD_extractLsb']
  by_cases h1 : i < 8
  · simp [h1]
  · simp [h1, show 8 + (i - 8) = i by omega, show i - 8 < 8 by omega]

/-- The word as a number (R41). -/
theorem wordOfBytes_toNat (hi lo : Byte) : (wordOfBytes hi lo).toNat = hi.toNat * 256 + lo.toNat := by
  rw [wordOfBytes, BitVec.toNat_append, ← Nat.shiftLeft_add_eq_or_of_lt lo.isLt, Nat.shiftLeft_eq]

/-- `decode` reads one word and leaves the rest of the stream. -/
@[simp] theorem decode_cons (hi lo : Byte) (rest : List Byte) :
    decode (hi :: lo :: rest) = (decodeWord (wordOfBytes hi lo), rest) := rfl

/-- The decoder on a table word is `decodeWord`. -/
theorem decodeTableWord_eq (nbits w : Nat) :
    decodeTableWord nbits w = (decodeWord (BitVec.ofNat 16 (w % 2 ^ nbits))).toOption := by
  simp [decodeTableWord]

end Sys2Proof
end

