-- ==== Sys2Proof/Laws/PerInstr.lean ====
section
/-!
SUPPORT. What is proved of every instruction as syntax, one lemma per constructor. Family `OpcodeMap`: the word of an
instruction lies in its own row of the opcode map (R66: `op & mask = match`).
-/
namespace Sys2Proof.Laws

/-- The word of `i` is the instruction of row `i.rowNumber` of the opcode map (R66). -/
def OpcodeMap.Statement (i : Instr) : Prop :=
  (opcodeTable[i.rowNumber]?).map (fun r => r.holds (encode i)) = some true

/-- A word of format `F_NNN` under the mask of that format. -/
theorem formNnn_mask (h : BitVec 4) (nnn : Addr) : formNnn h nnn &&& 0xF000#16 = formNnn h 0 := by
  apply BitVec.eq_of_getLsbD_eq
  intro i hi
  simp only [formNnn, BitVec.getLsbD_and, BitVec.getLsbD_append]
  interval_cases i <;> simp

/-- A word of format `F_XKK` under the mask of that format. -/
theorem formXkk_mask (h : BitVec 4) (x : RegIdx) (kk : Byte) : formXkk h x kk &&& 0xF000#16 = formXkk h 0 0 := by
  apply BitVec.eq_of_getLsbD_eq
  intro i hi
  simp only [formXkk, BitVec.getLsbD_and, BitVec.getLsbD_append]
  interval_cases i <;> simp

/-- A word of format `F_XSS` under the mask of that format. -/
theorem formXss_mask (h : BitVec 4) (x : RegIdx) (kk : Byte) : formXkk h x kk &&& 0xF0FF#16 = formXkk h 0 kk := by
  apply BitVec.eq_of_getLsbD_eq
  intro i hi
  simp only [formXkk, BitVec.getLsbD_and, BitVec.getLsbD_append]
  interval_cases i <;> simp

/-- A word of format `F_XYS` under the mask of that format. -/
theorem formXys_mask (h : BitVec 4) (x y : RegIdx) (n : BitVec 4) :
    formXyn h x y n &&& 0xF00F#16 = formXyn h 0 0 n := by
  apply BitVec.eq_of_getLsbD_eq
  intro i hi
  simp only [formXyn, BitVec.getLsbD_and, BitVec.getLsbD_append]
  interval_cases i <;> simp

/-- A word of format `F_XYN` under the mask of that format. -/
theorem formXyn_mask (h : BitVec 4) (x y : RegIdx) (n : BitVec 4) :
    formXyn h x y n &&& 0xF000#16 = formXyn h 0 0 0 := by
  apply BitVec.eq_of_getLsbD_eq
  intro i hi
  simp only [formXyn, BitVec.getLsbD_and, BitVec.getLsbD_append]
  interval_cases i <;> simp

/-- A row under its mask: the shape of every lemma below. -/
theorem OpcodeMap.of_row {i : Instr} {r : OpcodeRow} (hr : opcodeTable[i.rowNumber]? = some r)
    (h : encode i &&& r.mask = r.matched) : OpcodeMap.Statement i := by
  simp [OpcodeMap.Statement, hr, OpcodeRow.holds, h]

theorem OpcodeMap.cls : OpcodeMap.Statement (.cls) :=
  OpcodeMap.of_row rfl rfl

theorem OpcodeMap.ret : OpcodeMap.Statement (.ret) :=
  OpcodeMap.of_row rfl rfl

theorem OpcodeMap.jp (nnn : Addr) : OpcodeMap.Statement (.jp nnn) :=
  OpcodeMap.of_row rfl (formNnn_mask _ _)

theorem OpcodeMap.call (nnn : Addr) : OpcodeMap.Statement (.call nnn) :=
  OpcodeMap.of_row rfl (formNnn_mask _ _)

theorem OpcodeMap.seVxKk (x : RegIdx) (kk : Byte) : OpcodeMap.Statement (.seVxKk x kk) :=
  OpcodeMap.of_row rfl (formXkk_mask _ _ _)

theorem OpcodeMap.sneVxKk (x : RegIdx) (kk : Byte) : OpcodeMap.Statement (.sneVxKk x kk) :=
  OpcodeMap.of_row rfl (formXkk_mask _ _ _)

theorem OpcodeMap.seVxVy (x y : RegIdx) : OpcodeMap.Statement (.seVxVy x y) :=
  OpcodeMap.of_row rfl (formXys_mask _ _ _ _)

theorem OpcodeMap.ldVxKk (x : RegIdx) (kk : Byte) : OpcodeMap.Statement (.ldVxKk x kk) :=
  OpcodeMap.of_row rfl (formXkk_mask _ _ _)

theorem OpcodeMap.addVxKk (x : RegIdx) (kk : Byte) : OpcodeMap.Statement (.addVxKk x kk) :=
  OpcodeMap.of_row rfl (formXkk_mask _ _ _)

theorem OpcodeMap.ldVxVy (x y : RegIdx) : OpcodeMap.Statement (.ldVxVy x y) :=
  OpcodeMap.of_row rfl (formXys_mask _ _ _ _)

theorem OpcodeMap.orVxVy (x y : RegIdx) : OpcodeMap.Statement (.orVxVy x y) :=
  OpcodeMap.of_row rfl (formXys_mask _ _ _ _)

theorem OpcodeMap.andVxVy (x y : RegIdx) : OpcodeMap.Statement (.andVxVy x y) :=
  OpcodeMap.of_row rfl (formXys_mask _ _ _ _)

theorem OpcodeMap.xorVxVy (x y : RegIdx) : OpcodeMap.Statement (.xorVxVy x y) :=
  OpcodeMap.of_row rfl (formXys_mask _ _ _ _)

theorem OpcodeMap.addVxVy (x y : RegIdx) : OpcodeMap.Statement (.addVxVy x y) :=
  OpcodeMap.of_row rfl (formXys_mask _ _ _ _)

theorem OpcodeMap.subVxVy (x y : RegIdx) : OpcodeMap.Statement (.subVxVy x y) :=
  OpcodeMap.of_row rfl (formXys_mask _ _ _ _)

theorem OpcodeMap.shrVx (x y : RegIdx) : OpcodeMap.Statement (.shrVx x y) :=
  OpcodeMap.of_row rfl (formXys_mask _ _ _ _)

theorem OpcodeMap.subnVxVy (x y : RegIdx) : OpcodeMap.Statement (.subnVxVy x y) :=
  OpcodeMap.of_row rfl (formXys_mask _ _ _ _)

theorem OpcodeMap.shlVx (x y : RegIdx) : OpcodeMap.Statement (.shlVx x y) :=
  OpcodeMap.of_row rfl (formXys_mask _ _ _ _)

theorem OpcodeMap.sneVxVy (x y : RegIdx) : OpcodeMap.Statement (.sneVxVy x y) :=
  OpcodeMap.of_row rfl (formXys_mask _ _ _ _)

theorem OpcodeMap.ldINnn (nnn : Addr) : OpcodeMap.Statement (.ldINnn nnn) :=
  OpcodeMap.of_row rfl (formNnn_mask _ _)

theorem OpcodeMap.jpV0Nnn (nnn : Addr) : OpcodeMap.Statement (.jpV0Nnn nnn) :=
  OpcodeMap.of_row rfl (formNnn_mask _ _)

theorem OpcodeMap.rndVxKk (x : RegIdx) (kk : Byte) : OpcodeMap.Statement (.rndVxKk x kk) :=
  OpcodeMap.of_row rfl (formXkk_mask _ _ _)

theorem OpcodeMap.drwVxVyN (x y : RegIdx) (n : Nat) : OpcodeMap.Statement (.drwVxVyN x y n) :=
  OpcodeMap.of_row rfl (formXyn_mask _ _ _ _)

theorem OpcodeMap.skpVx (x : RegIdx) : OpcodeMap.Statement (.skpVx x) :=
  OpcodeMap.of_row rfl (formXss_mask _ _ _)

theorem OpcodeMap.sknpVx (x : RegIdx) : OpcodeMap.Statement (.sknpVx x) :=
  OpcodeMap.of_row rfl (formXss_mask _ _ _)

theorem OpcodeMap.ldVxDt (x : RegIdx) : OpcodeMap.Statement (.ldVxDt x) :=
  OpcodeMap.of_row rfl (formXss_mask _ _ _)

theorem OpcodeMap.ldVxK (x : RegIdx) : OpcodeMap.Statement (.ldVxK x) :=
  OpcodeMap.of_row rfl (formXss_mask _ _ _)

theorem OpcodeMap.ldDtVx (x : RegIdx) : OpcodeMap.Statement (.ldDtVx x) :=
  OpcodeMap.of_row rfl (formXss_mask _ _ _)

theorem OpcodeMap.ldStVx (x : RegIdx) : OpcodeMap.Statement (.ldStVx x) :=
  OpcodeMap.of_row rfl (formXss_mask _ _ _)

theorem OpcodeMap.addIVx (x : RegIdx) : OpcodeMap.Statement (.addIVx x) :=
  OpcodeMap.of_row rfl (formXss_mask _ _ _)

theorem OpcodeMap.ldFVx (x : RegIdx) : OpcodeMap.Statement (.ldFVx x) :=
  OpcodeMap.of_row rfl (formXss_mask _ _ _)

theorem OpcodeMap.ldBVx (x : RegIdx) : OpcodeMap.Statement (.ldBVx x) :=
  OpcodeMap.of_row rfl (formXss_mask _ _ _)

theorem OpcodeMap.ldIndVx (x : RegIdx) : OpcodeMap.Statement (.ldIndVx x) :=
  OpcodeMap.of_row rfl (formXss_mask _ _ _)

theorem OpcodeMap.ldVxInd (x : RegIdx) : OpcodeMap.Statement (.ldVxInd x) :=
  OpcodeMap.of_row rfl (formXss_mask _ _ _)

end Sys2Proof.Laws
end

