-- ==== Sys2Proof/Laws/Stack.lean ====
section
/-!
SUPPORT. The laws of the call stack: everything that a push and a pop can answer, and that a pop undoes a push.
-/
namespace Sys2Proof.Machine

/-- A push answers nothing exactly when 16 entries are in use (R84). -/
theorem State.push?_eq_none {s : State} {w : Word} : s.push? w = none ↔ s.sp.val = 16 := by
  have := s.sp.isLt
  unfold State.push?
  split
  · simp
    omega
  · simp
    omega

/-- Everything a push does (R103): the count goes up, the entry is the value, the live entries below and all other state
stay. -/
theorem State.push?_some {s t : State} {w : Word} (h : s.push? w = some t) :
    s.sp.val < 16 ∧ t.sp.val = s.sp.val + 1 ∧ (∀ j : Fin 16, t.stack.get j = if s.sp.val = j.val then w else s.stack.get j) ∧
      t = s.setStack t.stack t.sp := by
  unfold State.push? at h
  split at h
  · next hs =>
    cases h
    refine ⟨hs, rfl, fun j => ?_, rfl⟩
    simp [Vector.get_eq_getElem, Vector.getElem_set]
  · cases h

/-- A pop answers nothing exactly on an empty stack (R84). -/
theorem State.pop?_eq_none {s : State} : s.pop? = none ↔ s.sp.val = 0 := by
  unfold State.pop?
  split
  · simp
    omega
  · simp
    omega

/-- Everything a pop does (R101): the count goes down, the answer is the newest entry, all other state stays. -/
theorem State.pop?_some {s t : State} {w : Word} (h : s.pop? = some (w, t)) :
    0 < s.sp.val ∧ t.sp.val = s.sp.val - 1 ∧ (∀ j : Fin 16, j.val + 1 = s.sp.val → w = s.stack.get j) ∧
      t = s.setStack s.stack t.sp := by
  unfold State.pop? at h
  split at h
  · next hs =>
    cases h
    refine ⟨hs, rfl, fun j hj => ?_, rfl⟩
    have : s.sp.val - 1 = j.val := by omega
    simp [Vector.get_eq_getElem, this]
  · cases h

end Sys2Proof.Machine
end

