-- ==== Sys2Proof/Laws/Step.lean ====
section
/-!
SUPPORT. The laws of the step: everything one slot can do, everything the two stack instructions can do, what the fetch
reads, and what the key events, reset and load of the host leave.
-/
namespace Sys2Proof.Machine

/-! ## Fetch -/

/-- The word fetched, as the two bytes it is made of (R41, R81). -/
theorem State.fetchWord_toNat (s : State) :
    s.fetchWord.toNat =
      (s.memRead (s.pc.setWidth 12)).toNat * 256 + (s.memRead ((s.pc + 1).setWidth 12)).toNat :=
  wordOfBytes_toNat _ _

/-! ## One slot -/

/-- Everything one slot can do (R80, R87, R91): nothing outside mode Running; in it, a fetch fault, a decode fault, or the
instruction's own meaning. -/
theorem step_cases (s : State) :
    (s.mode ≠ .running ∧ step s = .next s) ∨
    (s.mode = .running ∧ s.pc.toNat > 0x0FFE ∧ step s = .next (s.raise .fetchFault s.pc none)) ∨
    (s.mode = .running ∧ s.pc.toNat ≤ 0x0FFE ∧ ∃ c, decodeWord s.fetchWord = .illegal c ∧
      step s = .next (s.advancePc.raise .decodeFault s.pc (some s.fetchWord))) ∨
    (s.mode = .running ∧ s.pc.toNat ≤ 0x0FFE ∧ ∃ i, decodeWord s.fetchWord = .instr i ∧ step s = exec i s) := by
  by_cases hm : s.mode = .running
  · have hs : step s = runningStep s := by
      change slot s = _
      unfold slot
      rw [hm]
    rw [hs, runningStep]
    by_cases hp : s.pc.toNat > 0x0FFE
    · exact .inr (.inl ⟨hm, hp, if_pos hp⟩)
    · have hp' : s.pc.toNat ≤ 0x0FFE := by omega
      rw [if_neg hp]
      cases hd : decodeWord s.fetchWord with
      | illegal c => exact .inr (.inr (.inl ⟨hm, hp', c, rfl, rfl⟩))
      | instr i => exact .inr (.inr (.inr ⟨hm, hp', i, rfl, rfl⟩))
  · refine .inl ⟨hm, ?_⟩
    change slot s = _
    unfold slot
    cases h : s.mode with
    | running => exact absurd h hm
    | waitingForKey r => rfl
    | faulted => rfl

/-! ## The stack instructions -/

/-- Everything a return can do (R84, R101). -/
theorem execRet_cases (s : State) :
    (s.sp.val = 0 ∧ exec .ret s = .next (s.advancePc.raise .stackUnderflow s.pc (some (encode .ret)))) ∨
    (∃ w t, s.preState.pop? = some (w, t) ∧ exec .ret s = .next (t.jump w)) := by
  cases h : s.preState.pop? with
  | none => exact .inl ⟨(State.pop?_eq_none (s := s.preState)).1 h, by simp only [exec, execRet, h]⟩
  | some p => exact .inr ⟨p.1, p.2, rfl, by simp only [exec, execRet, h]⟩

/-- Everything a call can do (R84, R103). -/
theorem execCall_cases (nnn : Addr) (s : State) :
    (s.sp.val = 16 ∧
      exec (.call nnn) s = .next (s.advancePc.raise .stackOverflow s.pc (some (encode (.call nnn))))) ∨
    (∃ t, s.preState.push? (s.pc + 2) = some t ∧ exec (.call nnn) s = .next (t.jump (zextAddr nnn))) := by
  cases h : s.preState.push? s.preState.pc with
  | none => exact .inl ⟨(State.push?_eq_none (s := s.preState)).1 h, by simp only [exec, execCall, h]⟩
  | some t => exact .inr ⟨t, h, by simp only [exec, execCall, h]⟩

/-! ## Host moves -/

/-- All that a latch write does to a latch (R210, R211). -/
theorem State.keys_latchKey (s : State) (k j : Key) (b : Bool) :
    (s.latchKey k b).keys.get j = if k = j then b else s.keys.get j := by
  simp only [State.latchKey, Vector.get_eq_getElem, Vector.getElem_set, Fin.ext_iff]

/-- All that a key press does (R210), for a key latch, whatever the mode. -/
theorem State.keyDown_keys (s : State) (k : Key) : (s.keyDown k).keys = (s.latchKey k true).keys := by
  unfold State.keyDown
  cases s.mode <;> rfl

/-- Outside WaitingForKey a key press only sets the latch (R210, R213). -/
theorem State.keyDown_of_not_waiting (s : State) (k : Key) (h : s.waiting = false) :
    s.keyDown k = s.latchKey k true := by
  unfold State.waiting at h
  unfold State.keyDown
  cases hm : s.mode <;> simp_all

/-- In WaitingForKey a key press ends the wait (R210). -/
theorem State.keyDown_of_waiting {s : State} {r : RegIdx} (k : Key) (h : s.mode = .waitingForKey r) :
    s.keyDown k = ((s.latchKey k true).setReg r (keyByte k)).setMode .running := by
  unfold State.keyDown
  rw [h]

/-- A key test finds a latched key of that code, and no code above 15 (R170). -/
theorem State.pressed_iff (s : State) (c : Byte) :
    s.pressed c = true ↔ ∃ k : Key, k.val = c.toNat ∧ s.keys.get k = true := by
  unfold State.pressed
  split
  · next h =>
    constructor
    · intro hk
      exact ⟨⟨c.toNat, h⟩, rfl, by simpa [Vector.get_eq_getElem] using hk⟩
    · rintro ⟨k, hk, hs⟩
      simpa [Vector.get_eq_getElem, hk] using hs
  · next h =>
    simp only [Bool.false_eq_true, false_iff]
    rintro ⟨k, hk, -⟩
    have := k.isLt
    omega

end Sys2Proof.Machine
end

