-- ==== Sys2Proof/Tests/Slice0.lean ====
section
/-!
SUPPORT. The model's own tests. Expected results are the vectors of `95_test_vectors.md`, named in each comment: one step on
a state built from reset by the listed differences, the opcode placed where the step fetches it. Then the witnesses: for
every statement with hypotheses, a concrete state and operands that meet them.
-/
namespace Sys2Proof.Tests

open Sys2Proof.Machine

/-- The state S0 of `95_test_vectors.md` section 0. -/
abbrev S0 : State := State.reset

/-- A value of `FONT` that is not the default. -/
def otherFont : Font := Vector.replicate 80 0x5A

/-- One slot with the opcode `op` placed at the pc; `p` says what to check of the next state. -/
def after (op : Nat) (s : State) (p : State → Bool) : Bool :=
  match step (s.withFetchWord 16 op) with
  | .next t => p t
  | .fault _ => false
  | .refused _ => false

/-- A byte of memory before the step. -/
def poke (s : State) (a : Addr) (b : Byte) : State := s.memWrite a b

/-! ## Well-formedness: an ill-formed term for each check -/

theorem test_wellFormed_refuses_height_16 : (Instr.drwVxVyN 1 2 16).wellFormed = false := by decide

theorem test_wellFormed_accepts_height_15 : (Instr.drwVxVyN 1 2 15).wellFormed = true := by decide

/-- T70.3: 3585 bytes are refused, 3584 accepted. -/
theorem test_romFits_boundary :
    romFits (List.replicate 3585 0x00) = false ∧ romFits (List.replicate 3584 0x00) = true := by
  simp only [romFits, maxRomLength, List.length_replicate]
  decide

/-- Memory out of canonical form: falling addresses, an address outside memory, a cell that holds its reset contents. -/
theorem test_memory_wf_refuses :
    ¬Memory.wf [(0x301, 1), (0x300, 1)] ∧ ¬Memory.wf [(0x1000, 1)] ∧ ¬Memory.wf [(0x300, 0)] := by decide

/-! ## Decoding: a word written out bit by bit for each row of `30_encoding.md` R66 (section 2.7 of the vectors) -/

theorem test_decode_rows_a :
    decodeWord 0b0000000011100000 = .instr (.cls) ∧
    decodeWord 0b0000000011101110 = .instr (.ret) ∧
    decodeWord 0b0001101010111100 = .instr (.jp 0xABC) ∧
    decodeWord 0b0010001100000000 = .instr (.call 0x300) ∧
    decodeWord 0b0011000101000010 = .instr (.seVxKk 1 0x42) ∧
    decodeWord 0b0100000101000010 = .instr (.sneVxKk 1 0x42) ∧
    decodeWord 0b0101000100100000 = .instr (.seVxVy 1 2) ∧
    decodeWord 0b0110101001011100 = .instr (.ldVxKk 10 0x5C) := by decide

theorem test_decode_rows_b :
    decodeWord 0b0111000100000101 = .instr (.addVxKk 1 0x05) ∧
    decodeWord 0b1000000100100000 = .instr (.ldVxVy 1 2) ∧
    decodeWord 0b1000000100100001 = .instr (.orVxVy 1 2) ∧
    decodeWord 0b1000000100100010 = .instr (.andVxVy 1 2) ∧
    decodeWord 0b1000000100100011 = .instr (.xorVxVy 1 2) ∧
    decodeWord 0b1000000100100100 = .instr (.addVxVy 1 2) ∧
    decodeWord 0b1000000100100101 = .instr (.subVxVy 1 2) ∧
    decodeWord 0b1000000100100110 = .instr (.shrVx 1 2) ∧
    decodeWord 0b1000000100100111 = .instr (.subnVxVy 1 2) ∧
    decodeWord 0b1000000100101110 = .instr (.shlVx 1 2) := by decide

theorem test_decode_rows_c :
    decodeWord 0b1001000100100000 = .instr (.sneVxVy 1 2) ∧
    decodeWord 0b1010000100100011 = .instr (.ldINnn 0x123) ∧
    decodeWord 0b1011001100000000 = .instr (.jpV0Nnn 0x300) ∧
    decodeWord 0b1100000100001111 = .instr (.rndVxKk 1 0x0F) ∧
    decodeWord 0b1101000100100101 = .instr (.drwVxVyN 1 2 5) ∧
    decodeWord 0b1110000110011110 = .instr (.skpVx 1) ∧
    decodeWord 0b1110000110100001 = .instr (.sknpVx 1) ∧
    decodeWord 0b1111001000000111 = .instr (.ldVxDt 2) := by decide

theorem test_decode_rows_d :
    decodeWord 0b1111000100001010 = .instr (.ldVxK 1) ∧
    decodeWord 0b1111000000010101 = .instr (.ldDtVx 0) ∧
    decodeWord 0b1111010000011000 = .instr (.ldStVx 4) ∧
    decodeWord 0b1111000100011110 = .instr (.addIVx 1) ∧
    decodeWord 0b1111000100101001 = .instr (.ldFVx 1) ∧
    decodeWord 0b1111000100110011 = .instr (.ldBVx 1) ∧
    decodeWord 0b1111001001010101 = .instr (.ldIndVx 2) ∧
    decodeWord 0b1111001001100101 = .instr (.ldVxInd 2) := by decide

/-- Section 2.7: illegal words under high nibbles 0, 5, 8, 9. -/
theorem test_decode_illegal_low :
    ([0x0000, 0x0001, 0x00E1, 0x00ED, 0x00EF, 0x00FF, 0x01E0, 0x0FEE, 0x0123, 0x5001, 0x511F, 0x9001, 0x9ABF, 0x8008, 0x8009,
      0x800A, 0x800B, 0x800C, 0x800D, 0x800F] : List Word).all (fun w => (decodeWord w).toOption.isNone) = true := by decide

/-- Section 2.7: illegal words under high nibbles E, F. -/
theorem test_decode_illegal_high :
    ([0xE000, 0xE09D, 0xE09F, 0xE0A0, 0xE1FF, 0xF000, 0xF008, 0xF00B, 0xF014, 0xF016, 0xF01F, 0xF030, 0xF034, 0xF054, 0xF056,
      0xF064, 0xF066, 0xF075, 0xF085, 0xF0FF] : List Word).all (fun w => (decodeWord w).toOption.isNone) = true := by decide

/-- The high byte is read first (R41): the bytes `D1 25` are `DRW V1, V2, 5`; one byte is no word. -/
theorem test_decode_bytes :
    decode [0xD1, 0x25, 0xAA] = (.instr (.drwVxVyN 1 2 5), [0xAA]) ∧ decode [0xD1] = (.illegal .truncated, [0xD1]) ∧
      decodeTableWord 16 0xD125 = some (.drwVxVyN 1 2 5) := by decide

/-- The rows of the opcode map are pairwise disjoint in their constant bits (R66). -/
theorem test_opcode_rows_disjoint :
    opcodeTable.Pairwise (fun r r' => r.matched &&& r'.mask ≠ r'.matched &&& r.mask) := by decide

/-! ## Flow control -/

/-- T41.1 -/
theorem test_jp : after (0x1ABC) (S0) (fun t => t.pc == 0x0ABC) = true := by decide

/-- T41.3 -/
theorem test_call_pushes : after (0x2300) (S0) (fun t => t.pc == 0x0300 && t.sp == 1 && t.stack.get 0 == 0x0202) = true := by decide

/-- T41.4 -/
theorem test_call_sixteenth : after (0x2ABC) ({ S0 with pc := 0x0456, sp := 15 }) (fun t => t.pc == 0x0ABC && t.sp == 16 && t.stack.get 15 == 0x0458) = true := by decide

/-- T41.6 -/
theorem test_ret : after (0x00EE) ({ S0 with pc := 0x0300, sp := 2, stack := (S0.stack.set 0 0x0202).set 1 0x0FFF }) (fun t => t.pc == 0x0FFF && t.sp == 1) = true := by decide

/-- T41.7, T60.6 -/
theorem test_ret_underflow : after (0x00EE) ({ S0 with dt := 5 }) (fun t => t.mode == .faulted && t.fault == some ⟨.stackUnderflow, 0x0200, some 0x00EE⟩ && t.pc == 0x0202 && t.dt == 5) = true := by decide

/-- T41.9, T41.11 -/
theorem test_jp_offset_v0 : after (0xB300) (((S0).setReg 0 0x04).setReg 3 0x55) (fun t => t.pc == 0x0304) = true := by decide

/-- T41.10 -/
theorem test_jp_offset_unmasked : after (0xBFFF) ((S0).setReg 0 0xFF) (fun t => t.pc == 0x10FE) = true := by decide

/-- T41.12 -/
theorem test_se_kk : after (0x3142) ((S0).setReg 1 0x42) (fun t => t.pc == 0x0204) = true := by decide

/-- T41.14 -/
theorem test_sne_kk : after (0x4142) ((S0).setReg 1 0x42) (fun t => t.pc == 0x0202) = true := by decide

/-- T41.17 -/
theorem test_se_vy : after (0x5120) (((S0).setReg 1 0x09).setReg 2 0x0A) (fun t => t.pc == 0x0202) = true := by decide

/-- T41.19 -/
theorem test_sne_vy : after (0x9120) (((S0).setReg 1 0x09).setReg 2 0x0A) (fun t => t.pc == 0x0204) = true := by decide

/-- T41.22 -/
theorem test_skip_from_last_word : after (0x3000) ({ S0 with pc := 0x0FFE }) (fun t => t.pc == 0x1002 && t.mode == .running) = true := by decide

/-! ## Register and arithmetic -/

/-- T1.2 -/
theorem test_ld_kk : after (0x6FFF) (S0) (fun t => t.reg 15 == 0xFF && t.pc == 0x0202) = true := by decide

/-- T42.2 -/
theorem test_add_kk_no_flag : after (0x7105) ((S0).setReg 1 0xFE) (fun t => t.reg 1 == 0x03 && t.reg 15 == 0x00) = true := by decide

/-- T42.5 -/
theorem test_ld_vy : after (0x8120) (((S0).setReg 1 0x11).setReg 2 0x22) (fun t => t.reg 1 == 0x22 && t.reg 2 == 0x22) = true := by decide

/-- T42.6 -/
theorem test_or : after (0x8121) ((((S0).setReg 1 0xF0).setReg 2 0x0F).setReg 15 0x01) (fun t => t.reg 1 == 0xFF && t.reg 15 == 0x01) = true := by decide

/-- T42.7 -/
theorem test_and : after (0x8122) ((((S0).setReg 1 0xF3).setReg 2 0x3F).setReg 15 0x01) (fun t => t.reg 1 == 0x33 && t.reg 15 == 0x01) = true := by decide

/-- T42.8 -/
theorem test_xor : after (0x8123) ((((S0).setReg 1 0xFF).setReg 2 0x0F).setReg 15 0x01) (fun t => t.reg 1 == 0xF0 && t.reg 15 == 0x01) = true := by decide

/-- T42.11 -/
theorem test_add_255_no_carry : after (0x8124) (((S0).setReg 1 0x80).setReg 2 0x7F) (fun t => t.reg 1 == 0xFF && t.reg 15 == 0x00) = true := by decide

/-- T42.34 -/
theorem test_add_alias_f : after (0x8F24) (((S0).setReg 15 0xF0).setReg 2 0x20) (fun t => t.reg 15 == 0x10) = true := by decide

/-- T42.17 -/
theorem test_sub_equal : after (0x8125) ((((S0).setReg 1 0x07).setReg 2 0x07).setReg 15 0x01) (fun t => t.reg 1 == 0x00 && t.reg 15 == 0x00) = true := by decide

/-- T42.43 -/
theorem test_sub_alias_y_f : after (0x81F5) (((S0).setReg 1 0x09).setReg 15 0x04) (fun t => t.reg 1 == 0x05 && t.reg 15 == 0x01) = true := by decide

/-- T42.22 -/
theorem test_shr_ignores_y : after (0x8126) ((((S0).setReg 1 0x80).setReg 2 0xFF).setReg 15 0x01) (fun t => t.reg 1 == 0x40 && t.reg 15 == 0x00 && t.reg 2 == 0xFF) = true := by decide

/-- T42.39 -/
theorem test_shr_alias_f : after (0x8F26) ((S0).setReg 15 0x07) (fun t => t.reg 15 == 0x03) = true := by decide

/-- T42.27 -/
theorem test_subn_equal : after (0x8127) (((S0).setReg 1 0x07).setReg 2 0x07) (fun t => t.reg 1 == 0x00 && t.reg 15 == 0x01) = true := by decide

/-- T42.26 -/
theorem test_subn_borrow : after (0x8127) ((((S0).setReg 1 0x05).setReg 2 0x03).setReg 15 0x01) (fun t => t.reg 1 == 0xFE && t.reg 15 == 0x00) = true := by decide

/-- T42.30 -/
theorem test_shl : after (0x812E) ((S0).setReg 1 0x81) (fun t => t.reg 1 == 0x02 && t.reg 15 == 0x01) = true := by decide

/-- T42.41 -/
theorem test_shl_alias_f : after (0x8F2E) ((S0).setReg 15 0xC0) (fun t => t.reg 15 == 0x80) = true := by decide

/-- T42.50: a zero mask gives 0 whatever the random byte. -/
theorem test_rnd_zero_mask :
    ∃ t, exec (.rndVxKk 1 0x00) (S0.setReg 1 0x55) = .next t ∧ t.reg 1 = 0x00 ∧ t.pc = 0x0202 ∧ t.draws = 1 :=
  ⟨_, rfl, by simp, rfl, rfl⟩

/-! ## Index and memory -/

/-- T43.2 -/
theorem test_ld_i : after (0xAFFF) ({ S0 with i := 0x1234 }) (fun t => t.i == 0x0FFF) = true := by decide

/-- T43.4 -/
theorem test_add_i_past_12_bits : after (0xF11E) ({ (S0).setReg 1 0x01 with i := 0x0FFF }) (fun t => t.i == 0x1000 && t.reg 15 == 0x00) = true := by decide

/-- T43.5 -/
theorem test_add_i_wraps : after (0xF11E) ({ (S0).setReg 1 0x02 with i := 0xFFFF }) (fun t => t.i == 0x0001) = true := by decide

/-- T43.7 -/
theorem test_glyph : after (0xF129) ((S0).setReg 1 0xFF) (fun t => t.i == 0x04FB) = true := by decide

/-- T43.15 -/
theorem test_bcd_254 : after (0xF133) ({ (S0).setReg 1 0xFE with i := 0x0300 }) (fun t => t.memRead 0x300 == 2 && t.memRead 0x301 == 5 && t.memRead 0x302 == 4 && t.i == 0x0300) = true := by decide

/-- T43.17 -/
theorem test_bcd_wraps : after (0xF133) ({ (S0).setReg 1 0x7B with i := 0x0FFF }) (fun t => t.memRead 0xFFF == 1 && t.memRead 0x000 == 2 && t.memRead 0x001 == 3) = true := by decide

/-- T43.19 -/
theorem test_store_range : after (0xF255) ({ ((((S0).setReg 0 0x11).setReg 1 0x22).setReg 2 0x33).setReg 3 0x44 with i := 0x0400 }) (fun t => t.memRead 0x400 == 0x11 && t.memRead 0x401 == 0x22 && t.memRead 0x402 == 0x33 && t.memRead 0x403 == 0 && t.i == 0x0400) = true := by decide

/-- T43.22 -/
theorem test_store_wraps : after (0xF255) ({ (((S0).setReg 0 0x11).setReg 1 0x22).setReg 2 0x33 with i := 0x0FFE }) (fun t => t.memRead 0xFFE == 0x11 && t.memRead 0xFFF == 0x22 && t.memRead 0x000 == 0x33) = true := by decide

/-- T43.23 -/
theorem test_load_range : after (0xF265) ({ (S0).setReg 3 0x77 with i := 0x0400, mem := [(0x400, 0xDE), (0x401, 0xAD), (0x402, 0xBE), (0x403, 0xEF)] }) (fun t => t.reg 0 == 0xDE && t.reg 1 == 0xAD && t.reg 2 == 0xBE && t.reg 3 == 0x77) = true := by decide

/-- T43.26 -/
theorem test_load_wraps_to_font : after (0xF165) ({ S0 with i := 0x0FFF, mem := [(0xFFF, 0x5A)] }) (fun t => t.reg 0 == 0x5A && t.reg 1 == 0xF0) = true := by decide

/-! ## Display -/

/-- T44.1 -/
theorem test_cls : after (0x00E0) ({ S0.setReg 15 0x01 with fb := ((S0.fb.setCell 0 0 true).setCell 10 20 true).setCell 31 63 true }) (fun t => !t.fb.cell 0 0 && !t.fb.cell 10 20 && !t.fb.cell 31 63 && t.reg 15 == 0x01) = true := by decide

/-- T44.8 -/
theorem test_draw_wraps_both_axes : after (0xD012) ({ ((S0).setReg 0 0x3E).setReg 1 0x1F with i := 0x0300, mem := [(0x300, 0xFF), (0x301, 0x81)] }) (fun t => 
      ([0, 1, 2, 3, 4, 5, 62, 63].all fun c => t.fb.cell 31 (Fin.ofNat 64 c)) && !t.fb.cell 31 6 && t.fb.cell 0 62 && t.fb.cell 0 5 &&
      !t.fb.cell 0 63 && !t.fb.cell 0 0 && t.reg 15 == 0x00) = true := by decide

/-- T44.13 -/
theorem test_draw_collision_old_vf_row : after (0xD1F1) ({ ((S0).setReg 15 0x03).setReg 1 0x02 with i := 0x0300, mem := [(0x300, 0x80)], fb := S0.fb.setCell 3 2 true }) (fun t => !t.fb.cell 3 2 && t.reg 15 == 0x01) = true := by decide

/-! ## Keys -/

/-- T45.1 -/
theorem test_skp : after (0xE19E) ((S0.setReg 1 0x05).latchKey 5 true) (fun t => t.pc == 0x0204) = true := by decide

/-- T45.4 -/
theorem test_skp_code_above_15 : after (0xE19E) ((S0.setReg 1 0x15).latchKey 5 true) (fun t => t.pc == 0x0202) = true := by decide

/-- T45.6 -/
theorem test_sknp : after (0xE1A1) ((S0.setReg 1 0x05).latchKey 5 true) (fun t => t.pc == 0x0202) = true := by decide

/-- T45.7 -/
theorem test_sknp_code_above_15 : after (0xE1A1) ((S0.setReg 1 0xFF).latchKey 15 true) (fun t => t.pc == 0x0204) = true := by decide

/-- T45.10 -/
theorem test_wait : after (0xFF0A) ({ S0 with dt := 2 }) (fun t => t.mode == .waitingForKey 15 && t.dt == 1 && t.pc == 0x0202) = true := by decide

/-- Q1, Q2: the press ends the wait, stores the key and latches it; the pc stays. -/
theorem test_keyDown_ends_wait :
    (let t := State.keyDown { S0 with mode := .waitingForKey 1, pc := 0x0202 } 5
     t.mode == .running && t.reg 1 == 0x05 && t.keys.get 5 && t.pc == 0x0202) = true := by decide

/-- Q4: a press in mode Faulted only latches. -/
theorem test_keyDown_faulted :
    (let t := State.keyDown { S0 with mode := .faulted } 2
     t.mode == .faulted && t.keys.get 2 && t.reg 0 == 0x00) = true := by decide

/-! ## Timers -/

/-- T46.1 -/
theorem test_read_delay_after_tick : after (0xF207) ({ S0 with dt := 2 }) (fun t => t.reg 2 == 0x01 && t.dt == 0x01) = true := by decide

/-- T46.2 -/
theorem test_read_delay_at_rest : after (0xF207) (S0.setReg 2 0x99) (fun t => t.reg 2 == 0x00) = true := by decide

/-- T46.5 -/
theorem test_set_delay : after (0xF015) ({ S0.setReg 0 0x03 with dt := 0x80 }) (fun t => t.dt == 0x03) = true := by decide

/-- T46.7 -/
theorem test_set_sound : after (0xF418) (S0.setReg 4 0x02) (fun t => t.st == 0x02 && t.toneOn) = true := by decide

/-- T46.9 -/
theorem test_tick_both : after (0x6000) ({ S0 with dt := 0xFF, st := 0x01 }) (fun t => t.dt == 0xFE && t.st == 0x00 && !t.toneOn) = true := by decide

/-! ## Faults, reset, load -/

/-- T60.1 -/
theorem test_decode_fault : after (0x5011) ({ S0 with dt := 5 }) (fun t => t.mode == .faulted && t.fault == some ⟨.decodeFault, 0x0200, some 0x5011⟩ && t.pc == 0x0202 && t.dt == 5) = true := by decide

/-- T60.7 -/
theorem test_stack_overflow : after (0x2300) ({ S0 with sp := 16, dt := 5 }) (fun t => t.fault == some ⟨.stackOverflow, 0x0200, some 0x2300⟩ && t.pc == 0x0202 && t.sp == 16 && t.dt == 5) = true := by decide

/-- T60.4: no wrap to `0x000`. -/
theorem test_fetch_fault :
    (match step { S0 with pc := 0x0FFF } with
     | .next t => t.mode == .faulted && t.fault == some ⟨.fetchFault, 0x0FFF, none⟩ && t.pc == 0x0FFF
     | _ => false) = true := by decide

/-- T70.4: reset with no load, then a slot: `0x0000` is a decode fault. -/
theorem test_slot_without_load :
    (match step S0 with
     | .next t => t.mode == .faulted && t.fault == some ⟨.decodeFault, 0x0200, some 0x0000⟩ && t.pc == 0x0202
     | _ => false) = true := by decide

/-- T70.2: an image of three bytes. -/
theorem test_load_three_bytes :
    (match (Session.start defaultFont).loadRom [0x12, 0x00, 0xAB] with
     | .next q => q.core.memRead 0x200 == 0x12 && q.core.memRead 0x202 == 0xAB && q.core.memRead 0x203 == 0x00
     | _ => false) = true := by decide +kernel

/-- R5, R17: with another `FONT` than the default, reset puts its bytes in place, also by the host's move. -/
theorem test_other_font :
    (match (Session.start otherFont).moves [.slot, .reset] with
     | .next q => q.core.memRead 0x032 == 0x5A && q.core.memRead 0x04F == 0x5A && q.core.memRead 0x050 == 0x00 && q.loadable
     | _ => false) = true := by decide +kernel

/-- R226: a batch during a wait is all idle slots and a render; a fault abandons its batch without a render (R225). -/
theorem test_batch :
    (match batch 3 { S0 with mode := .waitingForKey 1, dt := 5 }, batch 3 S0 with
     | .next p, .next q => p.2 && p.1.dt == 5 && !q.2 && q.1.pc == 0x0202
     | _, _ => false) = true := by decide

/-! ## Witnesses: the hypotheses of each statement are met -/

theorem witness_DecodeOfEncodeIsTheInstruction :
    (Instr.drwVxVyN 15 15 15).wellFormed = true ∧ (Instr.jp 0xFFF).wellFormed = true := by decide

theorem witness_EncodeOfDecodeIsTheWord :
    decodeWord 0x8FF6 = .instr (.shrVx 15 15) ∧ decodeWord 0xDFFF = .instr (.drwVxVyN 15 15 15) := by decide

theorem witness_OpcodeMapDecidesLegality :
    decodeWord 0xFF65 = .instr (.ldVxInd 15) ∧
      ∃ r ∈ opcodeTable, r.holds 0xFF65 = true :=
  ⟨by decide, ⟨"LD_VX_IND", 0xF065, 0xF0FF⟩, by decide, by decide⟩

/-- `6A01` at the last fetch address (T60.5). -/
def atLastWord : State := { S0 with pc := 0x0FFE, mem := [(0xFFE, 0x6A), (0xFFF, 0x01)] }

theorem witness_StepRunsTheDecodedInstruction :
    atLastWord.mode = .running ∧ atLastWord.pc.toNat ≤ 0x0FFE ∧
      (0x6A01 : Word).toNat = (atLastWord.memRead (BitVec.ofNat 12 atLastWord.pc.toNat)).toNat * 256 +
        (atLastWord.memRead (BitVec.ofNat 12 (atLastWord.pc.toNat + 1))).toNat ∧
      decodeWord 0x6A01 = .instr (.ldVxKk 10 0x01) := by decide

theorem witness_FetchFaultEntry :
    ({ S0 with pc := 0x0FFF } : State).mode = .running ∧ ({ S0 with pc := 0x0FFF } : State).pc.toNat > 0x0FFE := by decide

theorem witness_DecodeFaultEntry :
    S0.mode = .running ∧ S0.pc.toNat ≤ 0x0FFE ∧
      (0x0000 : Word).toNat = (S0.memRead (BitVec.ofNat 12 S0.pc.toNat)).toNat * 256 +
        (S0.memRead (BitVec.ofNat 12 (S0.pc.toNat + 1))).toNat ∧
      decodeWord 0x0000 = .illegal .zeroFamily := by decide

theorem witness_StackFaultEntry :
    S0.sp.val = 0 ∧ ({ S0 with sp := 16 } : State).sp.val = 16 := by decide

theorem witness_IdleSlotChangesNothing :
    ({ S0 with mode := .faulted } : State).mode ≠ .running ∧
      ({ S0 with mode := .waitingForKey 15 } : State).mode ≠ .running := by decide

theorem witness_FaultedUntilReset :
    ({ S0 with mode := .faulted } : State).mode = .faulted ∧
      ∀ m ∈ [HostMove.slot, .keyDown 2, .keyUp 2], m = .slot ∨ (∃ k, m = .keyDown k) ∨ ∃ k, m = .keyUp k :=
  ⟨rfl, by simp⟩

theorem witness_WaitsUntilKeyPress :
    ({ S0 with mode := .waitingForKey 1 } : State).mode = .waitingForKey 1 ∧
      ∀ m ∈ [HostMove.slot, .keyUp 7, .slot], m = .slot ∨ ∃ k, m = .keyUp k :=
  ⟨rfl, by simp⟩

theorem witness_KeyPressLatchesAndResumes :
    ({ S0 with mode := .waitingForKey 0 } : State).mode = .waitingForKey 0 ∧ (0 : Key) ≠ 15 ∧
      ∀ r, S0.mode ≠ .waitingForKey r :=
  ⟨rfl, by decide, fun r => by simp [State.reset]⟩

theorem witness_ResetPutsEveryResetValue :
    (0x000 : Addr).toNat = (0 : Fin 80).val ∧ (0x04F : Addr).toNat = (79 : Fin 80).val ∧ 80 ≤ (0x050 : Addr).toNat := by
  decide

theorem witness_GlyphAddressReachesTheGlyph :
    ((Vector.replicate 16 0x0F : Vector Byte 16).get 3).toNat = (15 : Fin 16).val ∧
      (79 : Fin 80).val = (15 : Fin 16).val * 5 + (4 : Fin 5).val := by decide

theorem witness_LoadWritesImage_accepted :
    (Session.start defaultFont).loadable = true ∧ ([0x12, 0x00, 0xAB] : List Byte).length ≤ 3584 ∧
      (List.replicate 3584 (0x12 : Byte)).length ≤ 3584 ∧ 0x200 + 3 ≤ 0x203 ∧ 0x1FF < 0x200 := by
  simp only [List.length_replicate]
  decide

theorem witness_LoadWritesImage_refused :
    3584 < (List.replicate 3585 (0x12 : Byte)).length ∧ (⟨defaultFont, S0, false⟩ : Session).loadable = false := by
  simp only [List.length_replicate]
  decide

theorem witness_StepKeepsTheInvariant : S0.Inv ∧ ∃ t, step S0 = .next t := ⟨by decide, _, rfl⟩

theorem witness_EveryHostMoveKeepsTheInvariant :
    (Session.start defaultFont).core.Inv ∧ ∃ q, (Session.start defaultFont).move (.load [0x12, 0x00]) = .next q := by
  rw [Session.start, State.resetWith_default]
  exact ⟨by decide, _, rfl⟩

theorem witness_EveryRunMeetsTheInvariant :
    ∃ q, (Session.start defaultFont).moves [.load [0xF1, 0x0A], .slot, .slot, .keyDown 5, .slot, .reset] = .next q := by
  rw [Session.start, State.resetWith_default]
  exact ⟨_, rfl⟩

theorem witness_EveryInstructionTicksOnce :
    (Instr.ret = .ret → 0 < ({ S0 with sp := 1 } : State).sp.val) ∧
      (∀ nnn, Instr.ret = .call nnn → ({ S0 with sp := 1 } : State).sp.val < 16) ∧
      ∃ t, exec .ret { S0 with sp := 1 } = .next t :=
  ⟨fun _ => by decide, fun _ h => (by cases h), _, rfl⟩

theorem witness_OnlyFlagInstructionsChangeVF :
    ∃ t, exec (.ldVxKk 15 0x01) S0 = .next t ∧ t.reg 15 ≠ S0.reg 15 := ⟨_, rfl, by decide⟩

theorem witness_FlagsAreZeroOrOne : (14 : RegIdx) ≠ 15 ∧ (0 : RegIdx) ≠ 15 := by decide

theorem witness_EachStateHasItsWriters_registers :
    (∃ t, exec (.ldINnn 0x300) S0 = .next t ∧ t.i ≠ S0.i) ∧ (∃ t, exec (.call 0x300) S0 = .next t ∧ t.sp ≠ S0.sp) ∧
      (∃ t, exec (.ldVxK 1) S0 = .next t ∧ t.mode ≠ S0.mode) ∧ (∃ t, exec .ret S0 = .next t ∧ t.fault ≠ S0.fault) :=
  ⟨⟨_, rfl, by decide⟩, ⟨_, rfl, by decide⟩, ⟨_, rfl, by decide⟩, ⟨_, rfl, by decide⟩⟩

theorem witness_EachStateHasItsWriters_surfaces :
    (∃ t, exec (.drwVxVyN 0 0 1) S0 = .next t ∧ t.fb.cell 0 0 ≠ S0.fb.cell 0 0) ∧
      (∃ t, exec (.ldBVx 0) S0 = .next t ∧ t.memRead 0x000 ≠ S0.memRead 0x000) :=
  ⟨⟨_, rfl, by decide⟩, ⟨_, rfl, by decide⟩⟩

/-- `1200` at `0x200`, the end of a run (T41.2). -/
theorem witness_EndOfRunIsAFixedPoint : ({ S0 with mem := [(0x200, 0x12)] } : State).AtEnd := by
  refine ⟨rfl, rfl, rfl, ?_, ?_⟩ <;> decide

/-- Program P6 at its step 4. -/
theorem witness_StoreIsSeenByTheNextFetch :
    (1 : RegIdx).val = (0 : RegIdx).val + 1 ∧ (1 : RegIdx) ≤ 1 ∧
      ({ S0 with pc := 0x0206, i := 0x0208 } : State).pc.toNat + 2 ≤ 0x0FFE ∧
      (({ S0 with pc := 0x0206, i := 0x0208 } : State).i.toNat + (0 : RegIdx).val) % 4096 =
        ({ S0 with pc := 0x0206, i := 0x0208 } : State).pc.toNat + 2 := by decide

theorem witness_alias_premises : (0 : RegIdx) ≠ 15 ∧ (14 : RegIdx) ≠ 15 := by decide

theorem witness_SkipOnRegistersResult : (0xF : BitVec 4) ≠ 0 ∧ (1 : BitVec 4) ≠ 0 := by decide

theorem witness_ReturnResult :
    ({ S0 with sp := 1 } : State).sp.val = (0 : Fin 16).val + 1 ∧
      ({ S0 with sp := 16 } : State).sp.val = (15 : Fin 16).val + 1 := by decide

theorem witness_CallResult :
    S0.sp.val = (0 : Fin 16).val ∧ ({ S0 with sp := 15 } : State).sp.val = (15 : Fin 16).val := by decide

theorem witness_ReturnAfterCallComesBack : S0.sp.val < 16 ∧ ({ S0 with sp := 15 } : State).sp.val < 16 := by decide

theorem witness_StoreDecimalResult :
    (0xFFF : Addr).toNat = ({ S0 with i := 0x0FFF } : State).i.toNat % 4096 ∧
      (0x000 : Addr).toNat = (({ S0 with i := 0x0FFF } : State).i.toNat + 1) % 4096 ∧
      (0x001 : Addr).toNat = (({ S0 with i := 0x0FFF } : State).i.toNat + 2) % 4096 := by decide

theorem witness_RegisterRanges :
    (15 : RegIdx) ≤ 15 ∧ (0x00E : Addr).toNat = (({ S0 with i := 0x0FFF } : State).i.toNat + (15 : RegIdx).val) % 4096 ∧
      (0 : RegIdx) < 1 := by decide

/-- One set cell under the sprite and one beside it, at the largest and the smallest height (T44.3, T44.7). -/
theorem witness_Draw :
    (15 < 16 ∧ 0 < 16) ∧
      SpriteCovers { S0 with i := 0x0300, mem := [(0x300, 0x80)] } 0 1 15 0 0 ∧
      ¬SpriteCovers { S0 with i := 0x0300, mem := [(0x300, 0x80)] } 0 1 0 0 0 :=
  ⟨by decide, ⟨0, by decide, 0, by decide, by decide, by decide, by decide⟩, fun ⟨_, h, _⟩ => Nat.not_lt_zero _ h⟩

theorem witness_KeySkipResults :
    (∃ k : Key, k.val = (((S0.setReg 1 0x0F).latchKey 15 true).reg 1).toNat ∧
        ((S0.setReg 1 0x0F).latchKey 15 true).keys.get k = true) ∧
      ¬∃ k : Key, k.val = ((S0.setReg 1 0x10).reg 1).toNat ∧ (S0.setReg 1 0x10).keys.get k = true := by decide

end Sys2Proof.Tests
end

section
/-!
PROOFS. The invariant of the block (`State.Inv`): what each named update does to it, that every instruction, every slot and
every move of the host keeps it, and that it therefore holds of every run from reset (`00_scope.md` R5, `60_exceptions.md`
R212, `70_reset_and_hazards.md` R242, R252).
-/
namespace Sys2Proof.Machine

/-! ## The fault clause -/

/-- Outside mode Faulted the fault clause asks for an empty record (R28). -/
theorem faultFits_of_not_faulted {s : State} (hm : s.mode ≠ .faulted) : faultFits s = s.fault.isNone := by
  unfold faultFits
  cases h : s.mode with
  | running => rfl
  | waitingForKey r => rfl
  | faulted => exact absurd h hm

/-- Outside mode Faulted the fault clause is carried by the fault record alone, whatever happens to the pc and the stack. -/
theorem faultFits_transfer {s t : State} (h : faultFits s = true) (hs : s.mode ≠ .faulted) (ht : t.mode ≠ .faulted)
    (hf : t.fault = s.fault) : faultFits t = true := by
  rw [faultFits_of_not_faulted ht, hf, ← faultFits_of_not_faulted hs]
  exact h

/-! ## Updates of the state that keep the invariant

An update of a field that the invariant does not read (registers, `I`, the timers, the display, the keys, the draw counter)
keeps it by definition. -/

section
variable {s : State}

theorem State.Inv.mem_wf (h : s.Inv) : s.mem.wf := h.1

theorem State.Inv.withMem (h : s.Inv) {m : Memory} (hm : m.wf) : State.Inv { s with mem := m } := by
  obtain ⟨-, hrest⟩ := h
  exact ⟨hm, hrest⟩

theorem State.Inv.memWrite (h : s.Inv) (a : Addr) (b : Byte) : (s.memWrite a b).Inv :=
  h.withMem (State.wf_memWrite a b h.mem_wf)

theorem State.Inv.storeRegs (h : s.Inv) (ks : List RegIdx) : (s.storeRegs ks).Inv := by
  rw [State.storeRegs_keeps]
  exact h.withMem (State.wf_storeRegs ks h.mem_wf)

theorem State.Inv.loadRegs (h : s.Inv) (ks : List RegIdx) : (s.loadRegs ks).Inv := by
  rw [State.loadRegs_keeps]
  exact h

/-- A jump within the range of the pc (R14). -/
theorem State.Inv.jump (h : s.Inv) (hs : s.mode ≠ .faulted) {w : Word} (hw : w.toNat ≤ 0x10FE) : (s.jump w).Inv := by
  obtain ⟨hmem, -, hstack, hfault⟩ := h
  exact ⟨hmem, hw, hstack, faultFits_transfer hfault hs hs rfl⟩

theorem State.Inv.advancePc (h : s.Inv) (hs : s.mode ≠ .faulted) (hpc : s.pc.toNat ≤ 0x10FC) : s.advancePc.Inv :=
  h.jump hs (by bv_omega)

theorem State.Inv.skipIf (h : s.Inv) (hs : s.mode ≠ .faulted) (hpc : s.pc.toNat ≤ 0x10FC) (c : Bool) :
    (s.skipIf c).Inv := by
  cases c with
  | false => exact h
  | true => exact h.advancePc hs hpc

/-- A change between the modes Running and WaitingForKey. -/
theorem State.Inv.setMode (h : s.Inv) (hs : s.mode ≠ .faulted) {m : Mode} (hm : m ≠ .faulted) : (s.setMode m).Inv := by
  obtain ⟨hmem, hpc, hstack, hfault⟩ := h
  exact ⟨hmem, hpc, hstack, faultFits_transfer hfault hs hm rfl⟩

/-- Fault entry with a record that fits the state (R202, R204). -/
theorem State.Inv.raise (h : s.Inv) {kind : FaultKind} {addr : Word} {opcode : Option Word}
    (hr : recordFits s ⟨kind, addr, opcode⟩ = true) : (s.raise kind addr opcode).Inv := by
  obtain ⟨hmem, hpc, hstack, -⟩ := h
  exact ⟨hmem, hpc, hstack, hr⟩

/-- A push of a return address (R103). -/
theorem State.Inv.push? {t : State} {w : Word} (h : s.Inv) (hs : s.mode ≠ .faulted) (hw : w.toNat ≤ 0x1000)
    (hp : s.push? w = some t) : t.Inv := by
  obtain ⟨hmem, hpc, hstack, hfault⟩ := h
  obtain ⟨-, hsp, hget, ht⟩ := State.push?_some hp
  rw [ht]
  refine ⟨hmem, hpc, fun (j : Fin 16) (hj : j.val < t.sp.val) => ?_, faultFits_transfer hfault hs hs rfl⟩
  change (t.stack.get j).toNat ≤ 0x1000
  rw [hget]
  split
  · exact hw
  · next hne => exact hstack j (by omega)

/-- A pop keeps the invariant and answers a return address (R101). -/
theorem State.Inv.pop? {t : State} {w : Word} (h : s.Inv) (hs : s.mode ≠ .faulted) (hp : s.pop? = some (w, t)) :
    t.Inv ∧ w.toNat ≤ 0x1000 ∧ t.mode = s.mode := by
  obtain ⟨hmem, hpc, hstack, hfault⟩ := h
  obtain ⟨hpos, hsp, hget, ht⟩ := State.pop?_some hp
  have hlt := s.sp.isLt
  have htop : w = s.stack.get ⟨s.sp.val - 1, by omega⟩ := hget _ (Nat.sub_add_cancel hpos)
  refine ⟨?_, ?_, by rw [ht]; rfl⟩
  · rw [ht]
    refine ⟨hmem, hpc, fun (j : Fin 16) (hj : j.val < t.sp.val) => hstack j (by omega), ?_⟩
    exact faultFits_transfer hfault hs hs rfl
  · rw [htop]
    exact hstack _ (Nat.sub_lt hpos Nat.one_pos)

end

/-! ## Targets of the jumps (R102, R104) -/

theorem zextAddr_toNat_lt (nnn : Addr) : (zextAddr nnn).toNat < 0x1000 := by
  unfold zextAddr
  bv_omega

theorem zextAddr_add_zextByte_toNat_le (nnn : Addr) (b : Byte) : (zextAddr nnn + zextByte b).toNat ≤ 0x10FE := by
  unfold zextAddr zextByte
  bv_omega

/-! ## Instructions -/

section
variable {s : State}

/-- A return, from a state whose opcode lies in memory, answers a state that meets the invariant (R101). -/
theorem State.Inv.execRet_answers (h : s.Inv) (hs : s.mode ≠ .faulted) (hpc : s.pc.toNat ≤ 0x0FFE) :
    ∃ t, exec .ret s = .next t ∧ t.Inv := by
  have hadv : s.advancePc.Inv := h.advancePc hs (by omega)
  obtain ⟨hsp, he⟩ | ⟨w, t, hpop, he⟩ := execRet_cases s
  · refine ⟨_, he, hadv.raise ?_⟩
    simp [recordFits, encode, hpc, hsp]
  · obtain ⟨ht, hw, hmode⟩ := State.Inv.pop? (s := s.preState) hadv hs hpop
    exact ⟨_, he, ht.jump (hmode ▸ hs) (by omega)⟩

/-- A call, from a state whose opcode lies in memory, answers a state that meets the invariant (R103). -/
theorem State.Inv.execCall_answers (h : s.Inv) (hs : s.mode ≠ .faulted) (hpc : s.pc.toNat ≤ 0x0FFE) (nnn : Addr) :
    ∃ t, exec (.call nnn) s = .next t ∧ t.Inv := by
  have hadv : s.advancePc.Inv := h.advancePc hs (by omega)
  obtain ⟨hsp, he⟩ | ⟨t, hpush, he⟩ := execCall_cases nnn s
  · refine ⟨_, he, hadv.raise ?_⟩
    simp [recordFits, encode, hpc, hsp]
  · have ht : t.Inv := State.Inv.push? (s := s.preState) hadv hs (by bv_omega) hpush
    obtain ⟨-, -, -, hkeeps⟩ := State.push?_some hpush
    have hmode : t.mode = s.mode := by rw [hkeeps]; rfl
    exact ⟨_, he, ht.jump (hmode ▸ hs) (by have := zextAddr_toNat_lt nnn; omega)⟩

/-- Every instruction, in mode Running with its opcode in memory, answers a state that meets the invariant (R86, R87). -/
theorem State.Inv.exec_answers (h : s.Inv) (hm : s.mode = .running) (hpc : s.pc.toNat ≤ 0x0FFE) (i : Instr) :
    ∃ t, exec i s = .next t ∧ t.Inv := by
  have hs : s.mode ≠ .faulted := by simp [hm]
  have hp : s.preState.Inv := h.advancePc hs (by omega)
  have hp2 : s.preState.pc.toNat ≤ 0x10FC := by
    rw [State.preState_pc]
    bv_omega
  have hskip (c : Bool) : (s.preState.skipIf c).Inv := hp.skipIf hs hp2 c
  cases i with
  | ret => exact h.execRet_answers hs hpc
  | call nnn => exact h.execCall_answers hs hpc nnn
  | jp nnn => exact ⟨_, rfl, hp.jump hs (by have := zextAddr_toNat_lt nnn; omega)⟩
  | jpV0Nnn nnn => exact ⟨_, rfl, hp.jump hs (zextAddr_add_zextByte_toNat_le nnn _)⟩
  | seVxKk | sneVxKk | seVxVy | sneVxVy | skpVx | sknpVx => exact ⟨_, rfl, hskip _⟩
  | ldVxK x => exact ⟨_, rfl, hp.setMode hs (by simp)⟩
  | ldBVx x => exact ⟨_, rfl, ((hp.memWrite _ _).memWrite _ _).memWrite _ _⟩
  | ldIndVx x => exact ⟨_, rfl, hp.storeRegs _⟩
  | ldVxInd x => exact ⟨_, rfl, hp.loadRegs _⟩
  -- The rest write only what the invariant does not read.
  | cls | drwVxVyN | ldINnn | addIVx | ldFVx | ldVxDt | ldDtVx | ldStVx => exact ⟨_, rfl, hp⟩
  | ldVxKk | addVxKk | ldVxVy | orVxVy | andVxVy | xorVxVy | rndVxKk => exact ⟨_, rfl, hp⟩
  | addVxVy | subVxVy | shrVx | subnVxVy | shlVx => exact ⟨_, rfl, hp⟩

/-! ## Slots -/

/-- Every slot answers a state that meets the invariant (R80, R91, R92). -/
theorem State.Inv.step_answers (h : s.Inv) : ∃ t, step s = .next t ∧ t.Inv := by
  obtain ⟨-, he⟩ | ⟨-, hpc, he⟩ | ⟨hm, hpc, c, hd, he⟩ | ⟨hm, hpc, i, -, he⟩ := step_cases s
  · exact ⟨s, he, h⟩
  · refine ⟨_, he, h.raise ?_⟩
    simp [recordFits, hpc]
  · have hadv : s.advancePc.Inv := h.advancePc (by simp [hm]) (by omega)
    refine ⟨_, he, hadv.raise ?_⟩
    simp [recordFits, hpc, hd, Decoded.toOption]
  · rw [he]
    exact h.exec_answers hm hpc i

theorem step_keeps_inv {t : State} (h : s.Inv) (hstep : step s = .next t) : t.Inv := by
  obtain ⟨u, hu, hinv⟩ := h.step_answers
  obtain rfl : u = t := Host.Outcome.next.inj (hu.symm.trans hstep)
  exact hinv

/-! ## Moves of the host -/

/-- The state after reset, for any `FONT` (R32). -/
theorem State.inv_resetWith (f : Font) : (State.resetWith f).Inv := by
  have hreset : State.reset.Inv := by decide
  exact hreset.withMem (Memory.wf_ofFont f)

/-- An image that `load` accepts lies inside memory (R246). -/
theorem State.Inv.loadBytes (h : s.Inv) {bytes : List Byte} (hfits : romFits bytes = true) : (s.loadBytes bytes).Inv := by
  have hlen : bytes.length ≤ 3584 := of_decide_eq_true hfits
  exact h.withMem (Memory.wf_writeBytes bytes h.mem_wf (by omega))

/-- A key press (R210). -/
theorem State.Inv.keyDown (h : s.Inv) (k : Key) : (s.keyDown k).Inv := by
  cases hm : s.mode with
  | waitingForKey r =>
    rw [State.keyDown_of_waiting k hm]
    exact State.Inv.setMode (s := (s.latchKey k true).setReg r (keyByte k)) h (by simp [hm]) (by simp)
  | running | faulted =>
    rw [State.keyDown_of_not_waiting s k (by simp [State.waiting, hm])]
    exact h

end

/-- Everything an accepted load is (R246, D19). -/
theorem Session.load_eq_next {p q : Session} {bytes : List Byte} (h : p.load bytes = .next q) :
    romFits bytes = true ∧ p.loadable = true ∧ q = { p with core := p.core.loadBytes bytes } := by
  unfold Session.load at h
  split at h
  · next hfits =>
    split at h
    · next hload => exact ⟨hfits, hload, (Host.Outcome.next.inj h).symm⟩
    · cases h
  · cases h

/-- Everything a slot that answers is, as a move (R80). -/
theorem Session.slot_eq_next {p q : Session} (h : p.slot = .next q) :
    ∃ t, step p.core = .next t ∧ q = { p with core := t, loadable := false } := by
  unfold Session.slot at h
  split at h
  · next t ht => exact ⟨t, ht, (Host.Outcome.next.inj h).symm⟩
  · cases h
  · cases h

/-- Every move of the host keeps the invariant (R252). -/
theorem Session.move_keeps_inv {p q : Session} {m : HostMove} (hp : p.core.Inv) (h : p.move m = .next q) :
    q.core.Inv := by
  cases m with
  | reset =>
    cases h
    exact State.inv_resetWith p.font
  | load bytes =>
    obtain ⟨hfits, -, rfl⟩ := Session.load_eq_next h
    exact hp.loadBytes hfits
  | slot =>
    obtain ⟨t, hstep, rfl⟩ := Session.slot_eq_next h
    exact step_keeps_inv hp hstep
  | keyDown k =>
    cases h
    exact hp.keyDown k
  | keyUp k =>
    cases h
    exact hp

/-- No move changes the parameter `FONT` (R5). -/
theorem Session.move_font {p q : Session} {m : HostMove} (h : p.move m = .next q) : q.font = p.font := by
  cases m with
  | load bytes =>
    obtain ⟨-, -, rfl⟩ := Session.load_eq_next h
    rfl
  | slot =>
    obtain ⟨t, -, rfl⟩ := Session.slot_eq_next h
    rfl
  | reset | keyDown k | keyUp k =>
    cases h
    rfl

/-! ## Runs -/

/-- A run is its first move and the run of the others (R212). -/
theorem Session.moves_cons_eq_next {p q : Session} {m : HostMove} {ms : List HostMove} (h : p.moves (m :: ms) = .next q) :
    ∃ r, p.move m = .next r ∧ r.moves ms = .next q := by
  unfold Session.moves at h
  split at h
  · next r hr => exact ⟨r, hr, h⟩
  · cases h
  · cases h

/-- What every move keeps, every run keeps (R212). -/
theorem Session.moves_keep {P : Session → Prop} (hmove : ∀ p q m, P p → p.move m = .next q → P q) {p q : Session}
    {ms : List HostMove} (hp : P p) (h : p.moves ms = .next q) : P q := by
  induction ms generalizing p with
  | nil =>
    cases h
    exact hp
  | cons m ms ih =>
    obtain ⟨r, hr, hrest⟩ := Session.moves_cons_eq_next h
    exact ih (hmove p r m hp hr) hrest

/-! ## The statements -/

/-- Settles O18: the default state by evaluation, and any `FONT` by the canonical form of the memory that holds it. -/
theorem resetMeetsTheInvariant : Obligations.ResetMeetsTheInvariant := by
  refine ⟨?_, State.inv_resetWith⟩
  rw [← State.resetWith_default]
  exact State.inv_resetWith defaultFont

/-- Settles O21: the state after reset meets the invariant, and every move of the host keeps it and the parameter `FONT`. -/
theorem everyRunMeetsTheInvariant : Obligations.EveryRunMeetsTheInvariant := by
  intro f ms q hrun
  refine Session.moves_keep (P := fun p => p.core.Inv ∧ p.font = f) ?_ ⟨State.inv_resetWith f, rfl⟩ hrun
  intro p r m ⟨hinv, hfont⟩ hmove
  exact ⟨Session.move_keeps_inv hinv hmove, (Session.move_font hmove).trans hfont⟩

end Sys2Proof.Machine
end

section
/-!
PROOFS. The state (`10_state.md`): the invariant over one slot, what each instruction may write, the values a flag takes, the
values after reset, and the glyphs that `Fx29` points at.
-/
namespace Sys2Proof.Machine

/-! ## The invariant over one slot -/

/-- Settles O19: one slot is idle, a fault entry or an instruction, and each of these keeps the invariant. -/
theorem stepKeepsTheInvariant : Obligations.StepKeepsTheInvariant := fun _ _ => step_keeps_inv

/-! ## The registers an instruction may write (R11, R12) -/

/-- The data registers an instruction names as its destination or writes as the flag. -/
def destinations : Instr → List RegIdx
  | .ldVxKk x _ | .addVxKk x _ | .rndVxKk x _ | .ldVxDt x => [x]
  | .ldVxVy x _ | .orVxVy x _ | .andVxVy x _ | .xorVxVy x _ => [x]
  | .addVxVy x _ | .subVxVy x _ | .shrVx x _ | .subnVxVy x _ | .shlVx x _ => [x, flagReg]
  | .drwVxVyN _ _ _ => [flagReg]
  | .ldVxInd x => regsUpTo x
  | .cls | .ret | .jp _ | .call _ | .jpV0Nnn _ | .ldINnn _ => []
  | .seVxKk _ _ | .sneVxKk _ _ | .seVxVy _ _ | .sneVxVy _ _ | .skpVx _ | .sknpVx _ => []
  | .ldVxK _ | .ldDtVx _ | .ldStVx _ | .addIVx _ | .ldFVx _ | .ldBVx _ | .ldIndVx _ => []

section
variable {s : State} {r x : RegIdx}

theorem State.reg_setReg_of_not_mem (b : Byte) (hr : r ∉ [x]) : (s.setReg x b).reg r = s.reg r :=
  s.reg_setReg_ne b (by simpa [eq_comm] using hr)

theorem State.reg_writeFlagThenResult_of_not_mem (f b : Byte) (hr : r ∉ [x, flagReg]) :
    (s.writeFlagThenResult x f b).reg r = s.reg r := by
  obtain ⟨hx, hf⟩ : x ≠ r ∧ flagReg ≠ r := by simpa [eq_comm] using hr
  rw [State.reg_writeFlagThenResult, if_neg hx, if_neg hf]

theorem State.reg_loadRegs_of_not_mem {ks : List RegIdx} (hr : r ∉ ks) : (s.loadRegs ks).reg r = s.reg r := by
  rw [State.reg_loadRegs, if_neg hr]

end

/-! ## What an instruction may write -/

theorem State.skipIf_keeps (s : State) (c : Bool) : s.skipIf c = { s with pc := (s.skipIf c).pc } := by
  cases c <;> rfl

/-- How an instruction may leave the state: it writes its destination registers, the pc, the timers and the draw counter, or one
more part of the state that only the instructions named may write (R34, R15, R20, R44, R84). -/
inductive Effect (s : State) (i : Instr) : State → Prop
  | registers (v pc dt st draws) (hv : ∀ r, r ∉ destinations i → v.get r = s.reg r) :
      Effect s i { s with v := v, pc := pc, dt := dt, st := st, draws := draws }
  | index (w pc dt st) (hi : ∃ nnn x, i ∈ [Instr.ldINnn nnn, .addIVx x, .ldFVx x]) :
      Effect s i { s with i := w, pc := pc, dt := dt, st := st }
  | display (v fb pc dt st) (hi : ∃ x y n, i ∈ [Instr.cls, .drwVxVyN x y n])
      (hv : ∀ r, r ∉ destinations i → v.get r = s.reg r) :
      Effect s i { s with v := v, fb := fb, pc := pc, dt := dt, st := st }
  | memory (mem pc dt st) (hi : ∃ x, i ∈ [Instr.ldBVx x, .ldIndVx x]) :
      Effect s i { s with mem := mem, pc := pc, dt := dt, st := st }
  | wait (mode pc dt st) (hi : ∃ x, i = .ldVxK x) : Effect s i { s with mode := mode, pc := pc, dt := dt, st := st }
  | stack (stack sp pc dt st) (hi : ∃ nnn, i ∈ [Instr.call nnn, .ret]) :
      Effect s i { s with stack := stack, sp := sp, pc := pc, dt := dt, st := st }
  | stackFault (fault pc) (hi : ∃ nnn, i ∈ [Instr.ret, .call nnn]) :
      Effect s i { s with mode := .faulted, fault := fault, pc := pc }

theorem execRet_effect {s t : State} (h : exec .ret s = .next t) : Effect s .ret t := by
  obtain ⟨-, he⟩ | ⟨w, u, hpop, he⟩ := execRet_cases s
  · cases he.symm.trans h
    exact .stackFault _ _ ⟨0, by simp⟩
  · obtain ⟨-, -, -, hu⟩ := State.pop?_some hpop
    cases he.symm.trans h
    rw [hu]
    exact .stack _ _ _ _ _ ⟨0, by simp⟩

theorem execCall_effect {nnn : Addr} {s t : State} (h : exec (.call nnn) s = .next t) : Effect s (.call nnn) t := by
  obtain ⟨-, he⟩ | ⟨u, hpush, he⟩ := execCall_cases nnn s
  · cases he.symm.trans h
    exact .stackFault _ _ ⟨nnn, by simp⟩
  · obtain ⟨-, -, -, hu⟩ := State.push?_some hpush
    cases he.symm.trans h
    rw [hu]
    exact .stack _ _ _ _ _ ⟨nnn, by simp⟩

/-- Everything an instruction can write (R86). -/
theorem exec_effect {i : Instr} {s t : State} (h : exec i s = .next t) : Effect s i t := by
  cases i with
  | ret => exact execRet_effect h
  | call nnn => exact execCall_effect h
  | ldINnn nnn =>
    cases h
    exact .index _ _ _ _ ⟨nnn, 0, by simp⟩
  | addIVx x | ldFVx x =>
    cases h
    exact .index _ _ _ _ ⟨0, x, by simp⟩
  | cls =>
    cases h
    exact .display _ _ _ _ _ ⟨0, 0, 0, by simp⟩ fun _ _ => rfl
  | drwVxVyN x y n =>
    cases h
    exact .display _ _ _ _ _ ⟨x, y, n, by simp⟩ fun _ => State.reg_setReg_of_not_mem _
  | ldBVx x =>
    cases h
    exact .memory _ _ _ _ ⟨x, by simp⟩
  | ldIndVx x =>
    cases h
    rw [State.storeRegs_keeps]
    exact .memory _ _ _ _ ⟨x, by simp⟩
  | ldVxK x =>
    cases h
    exact .wait _ _ _ _ ⟨x, rfl⟩
  | ldVxKk | addVxKk | ldVxVy | orVxVy | andVxVy | xorVxVy | rndVxKk | ldVxDt =>
    cases h
    exact .registers _ _ _ _ _ fun _ => State.reg_setReg_of_not_mem _
  | addVxVy | subVxVy | shrVx | subnVxVy | shlVx =>
    cases h
    exact .registers _ _ _ _ _ fun _ => State.reg_writeFlagThenResult_of_not_mem _ _
  | ldVxInd x =>
    cases h
    rw [State.loadRegs_keeps]
    exact .registers _ _ _ _ _ fun _ => State.reg_loadRegs_of_not_mem
  | seVxKk | sneVxKk | seVxVy | sneVxVy | skpVx | sknpVx =>
    cases h
    rw [State.skipIf_keeps]
    exact .registers _ _ _ _ _ fun _ _ => rfl
  | jp | jpV0Nnn | ldDtVx | ldStVx =>
    cases h
    exact .registers _ _ _ _ _ fun _ _ => rfl

/-- A register that is no destination of the instruction keeps its value (R11, R12). -/
theorem exec_reg_of_not_mem {i : Instr} {s t : State} {r : RegIdx} (h : exec i s = .next t) (hr : r ∉ destinations i) :
    t.reg r = s.reg r := by
  cases exec_effect h with
  | registers _ _ _ _ _ hv | display _ _ _ _ _ _ hv => exact hv r hr
  | index | memory | wait | stack | stackFault => rfl

/-- Settles O25: each part is written in one case of `Effect` only, the mode in two. -/
theorem eachStateHasItsWriters : Obligations.EachStateHasItsWriters := by
  intro i s t h
  cases exec_effect h with
  | registers => simp [State.memRead]
  | index _ _ _ _ hi => exact ⟨rfl, fun _ => hi, by simp [State.memRead]⟩
  | display _ _ _ _ _ hi => exact ⟨rfl, by simp, by simp, fun _ => hi, by simp [State.memRead]⟩
  | memory _ _ _ _ hi => exact ⟨rfl, by simp, by simp, by simp, fun _ => hi, by simp⟩
  | wait _ _ _ _ hi =>
    obtain ⟨x, rfl⟩ := hi
    exact ⟨rfl, by simp, by simp, by simp, by simp [State.memRead], fun _ => ⟨0, x, by simp⟩, by simp⟩
  | stack _ _ _ _ _ hi => exact ⟨rfl, by simp, fun _ => hi, by simp [State.memRead]⟩
  | stackFault _ _ hi =>
    obtain ⟨nnn, hi⟩ := hi
    exact ⟨rfl, by simp, by simp, by simp, by simp [State.memRead], fun _ => ⟨nnn, 0, .tail _ hi⟩, fun _ => ⟨nnn, hi⟩⟩

/-! ## The flag register (R12) -/

/-- Settles O23: the instructions that have `VF` among their destinations. -/
theorem onlyFlagInstructionsChangeVF : Obligations.OnlyFlagInstructionsChangeVF := by
  intro i s t h hchange
  have hmem : 15 ∈ destinations i := by
    by_contra hr
    exact hchange (exec_reg_of_not_mem h hr)
  cases i with
  | addVxVy x y | subVxVy x y | shrVx x y | subnVxVy x y | shlVx x y => exact .inl ⟨x, y, 0, by simp⟩
  | drwVxVyN x y n => exact .inl ⟨x, y, n, by simp⟩
  | ldVxKk x kk | addVxKk x kk | rndVxKk x kk =>
    obtain rfl := List.mem_singleton.1 hmem
    exact .inr ⟨0, kk, by simp⟩
  | ldVxVy x y | orVxVy x y | andVxVy x y | xorVxVy x y =>
    obtain rfl := List.mem_singleton.1 hmem
    exact .inr ⟨y, 0, by simp⟩
  | ldVxDt x =>
    obtain rfl := List.mem_singleton.1 hmem
    exact .inr ⟨0, 0, by simp⟩
  | ldVxInd x =>
    obtain rfl : x = 15 := Fin.last_le_iff.1 (mem_regsUpTo.1 hmem)
    exact .inr ⟨0, 0, by simp⟩
  | _ => cases hmem

theorem flagByte_zero_or_one (c : Bool) : flagByte c = 0x00 ∨ flagByte c = 0x01 := by
  cases c
  · exact .inl rfl
  · exact .inr rfl

/-- With another destination than `VF`, the flag of an arithmetic instruction stands (R88). -/
theorem State.flag_writeFlagThenResult (s : State) {x : RegIdx} (hx : x ≠ flagReg) (c : Bool) (b : Byte) :
    (s.writeFlagThenResult x (flagByte c) b).reg flagReg = 0x00 ∨
      (s.writeFlagThenResult x (flagByte c) b).reg flagReg = 0x01 := by
  rw [State.reg_writeFlagThenResult, if_neg hx, if_pos rfl]
  exact flagByte_zero_or_one c

/-- The flag of a draw stands whatever its operands are (R163). -/
theorem State.flag_setReg (s : State) (c : Bool) :
    (s.setReg flagReg (flagByte c)).reg flagReg = 0x00 ∨ (s.setReg flagReg (flagByte c)).reg flagReg = 0x01 := by
  rw [State.reg_setReg_same]
  exact flagByte_zero_or_one c

/-- Settles O24: five instructions write a flag and then another register, a draw writes its flag last. -/
theorem flagsAreZeroOrOne : Obligations.FlagsAreZeroOrOne := by
  intro x y n s hx
  have harith (c : Bool) (b : Byte) := s.preState.flag_writeFlagThenResult hx c b
  simp only [List.forall_mem_cons]
  exact ⟨⟨_, rfl, harith _ _⟩, ⟨_, rfl, harith _ _⟩, ⟨_, rfl, harith _ _⟩, ⟨_, rfl, harith _ _⟩, ⟨_, rfl, harith _ _⟩,
    ⟨_, rfl, State.flag_setReg _ _⟩, List.forall_mem_nil _⟩

/-! ## Reset (R32) and the glyphs (R17, R143) -/

theorem Font.getD_toList (f : Font) (j : Fin 80) : f.toList.getD j.val 0x00 = f.get j := by
  simp [Vector.get_eq_getElem, List.getD_eq_getElem?_getD]

/-- Settles O16: memory by `State.memRead_hostReset`, the default block by `State.resetWith_default`. -/
theorem resetPutsEveryResetValue : Obligations.ResetPutsEveryResetValue := by
  intro f s
  refine ⟨fun r => ?_, rfl, rfl, rfl, fun j => ?_, fun j a ha => ?_, fun a ha => ?_, rfl, rfl, cell_clearBitmap, fun k => ?_,
    rfl, rfl, ?_⟩
  · exact Vector.getElem_replicate r.isLt
  · exact Vector.getElem_replicate j.isLt
  · rw [State.memRead_hostReset, ha, Font.getD_toList]
  · rw [State.memRead_hostReset, List.getD_eq_default _ _ (by simpa using ha)]
  · exact Vector.getElem_replicate k.isLt
  · rw [State.hostReset_eq, State.resetWith_default]

/-- Settles O60: `EA(k)` is `d * 5 + k`, which is below 80, and `FONT` stands there. -/
theorem glyphAddressReachesTheGlyph : Obligations.GlyphAddressReachesTheGlyph := by
  intro f v x d k j hd hj
  refine ⟨_, rfl, ?_⟩
  have hea : (State.ea { State.resetWith f with i := glyphAddress (v.get x) } k.val).toNat = j.val := by
    have := j.isLt
    simp only [State.ea_toNat, glyphAddress, BitVec.toNat_ofNat, hd]
    omega
  change (State.resetWith f).memRead (State.ea { State.resetWith f with i := glyphAddress (v.get x) } k.val) = f.get j
  rw [State.memRead_resetWith, hea, Font.getD_toList]

end Sys2Proof.Machine
end

section
/-!
PROOFS. Memory (`20_memory.md`): what a range store `Fx55` leaves at each of its addresses, and the fetch that reads them.
-/
namespace Sys2Proof.Machine

@[simp] theorem State.storeRegs_pc (ks : List RegIdx) (s : State) : (s.storeRegs ks).pc = s.pc := by
  rw [State.storeRegs_keeps]

/-- After `V0` to `Vx` are stored, the byte at the `k`-th data address, given as a number, is `V[k]` (R43, R145). -/
theorem State.memRead_storeRegs_regsUpTo (s : State) {x k : RegIdx} {a : Addr} (hk : k ≤ x)
    (ha : a.toNat = (s.i.toNat + k.val) % 4096) : (s.storeRegs (regsUpTo x)).memRead a = s.reg k := by
  obtain rfl : a = s.ea k.val := BitVec.eq_of_toNat_eq (ha.trans (s.ea_toNat k.val).symm)
  exact s.memRead_storeRegs _ (nodup_regsUpTo x) (mem_regsUpTo.2 hk)

/-- Settles O27: the next opcode lies at `pc + 2` and `pc + 3`, both in memory, which are `EA(k)` and `EA(k + 1)`. -/
theorem storeIsSeenByTheNextFetch : Obligations.StoreIsSeenByTheNextFetch := by
  intro x k k' s hk' hle hpc hea
  refine ⟨_, rfl, ?_⟩
  have hkx : k ≤ x := (Fin.le_def.2 (by omega : k.val ≤ k'.val)).trans hle
  have hpc2 : (s.pc + 2).toNat = s.pc.toNat + 2 := by bv_omega
  have hpc3 : (s.pc + 2 + 1).toNat = s.pc.toNat + 3 := by bv_omega
  have hhigh : ((s.pc + 2).setWidth 12).toNat = (s.i.toNat + k.val) % 4096 := by
    rw [BitVec.toNat_setWidth, hpc2]
    omega
  have hlow : ((s.pc + 2 + 1).setWidth 12).toNat = (s.i.toNat + k'.val) % 4096 := by
    rw [BitVec.toNat_setWidth, hpc3]
    omega
  rw [State.fetchWord_toNat, State.storeRegs_pc, State.preState_pc, s.preState.memRead_storeRegs_regsUpTo hkx hhigh,
    s.preState.memRead_storeRegs_regsUpTo hle hlow, State.preState_reg, State.preState_reg]

end Sys2Proof.Machine
end

section
/-!
PROOFS. The encoding (`30_encoding.md`): decoder and encoder are inverse to each other, the illegal words by their digits,
and the rows of the opcode map against the decoder.
-/
namespace Sys2Proof

/-! ## Decoding an encoded instruction (R62, R64, R66) -/

theorem decodeWord_encode {i : Instr} (hwf : i.wellFormed = true) : decodeWord (encode i) = .instr i := by
  cases i with
  | cls | ret => rfl
  | jp | call | ldINnn | jpV0Nnn => simp [encode, decodeWord]
  | seVxKk | sneVxKk | ldVxKk | addVxKk | rndVxKk => simp [encode, decodeWord]
  | seVxVy | sneVxVy => simp [encode, decodeWord]
  | ldVxVy | orVxVy | andVxVy | xorVxVy | addVxVy | subVxVy | shrVx | subnVxVy | shlVx =>
    simp [encode, decodeWord, decodeEight]
  | drwVxVyN x y n =>
    have hn : n < 16 := of_decide_eq_true hwf
    simp [encode, decodeWord, Nat.mod_eq_of_lt hn]
  | skpVx | sknpVx => simp [encode, decodeWord, decodeKey]
  | ldVxDt | ldVxK | ldDtVx | ldStVx | addIVx | ldFVx | ldBVx | ldIndVx | ldVxInd =>
    simp [encode, decodeWord, decodeMisc]

/-- Settles O1: the fields of each format give the operands back. -/
theorem decodeOfEncodeIsTheInstruction : Obligations.DecodeOfEncodeIsTheInstruction := fun _ => decodeWord_encode

/-! ## Fields of a word as digits of its number (R61) -/

section
variable (w : Word)

theorem fieldH_eq_div : fieldH w = w.toNat / 4096 := by
  have := w.isLt
  rw [fieldH, BitVec.extractLsb'_toNat, Nat.shiftRight_eq_div_pow]
  omega

theorem fieldN_eq_mod : fieldN w = w.toNat % 16 := by
  rw [fieldN, BitVec.extractLsb'_toNat, Nat.shiftRight_zero]

theorem fieldKk_toNat : (fieldKk w).toNat = w.toNat % 256 := by
  rw [fieldKk, BitVec.extractLsb'_toNat, Nat.shiftRight_zero]

theorem fieldH_lt : fieldH w < 16 := (w.extractLsb' 12 4).isLt

theorem fieldN_lt : fieldN w < 16 := (w.extractLsb' 0 4).isLt

end

/-! ## The illegal words (R68) -/

section
variable (w : Word)

theorem decodeZero_illegal_iff : (∃ c, decodeZero w = .illegal c) ↔ w ≠ 0x00E0 ∧ w ≠ 0x00EE := by
  unfold decodeZero
  split
  · simp_all
  · split <;> simp_all

theorem decodeEight_illegal_iff :
    (∃ c, decodeEight w = .illegal c) ↔ fieldN w ∈ [0x8, 0x9, 0xA, 0xB, 0xC, 0xD, 0xF] := by
  have hlt := fieldN_lt w
  unfold decodeEight
  generalize fieldN w = n at hlt
  interval_cases n <;> simp

theorem decodeKey_illegal_iff : (∃ c, decodeKey w = .illegal c) ↔ (fieldKk w).toNat ∉ [0x9E, 0xA1] := by
  unfold decodeKey
  split <;> simp_all

theorem decodeMisc_illegal_iff : (∃ c, decodeMisc w = .illegal c) ↔
    (fieldKk w).toNat ∉ [0x07, 0x0A, 0x15, 0x18, 0x1E, 0x29, 0x33, 0x55, 0x65] := by
  unfold decodeMisc
  split <;> simp_all

end

/-- The two families of high nibble 5 and 9 test one condition (R65). -/
theorem ite_illegal_iff {p : Prop} [Decidable p] (i : Instr) (c : IllegalClass) :
    (∃ c', (if p then Decoded.instr i else .illegal c) = .illegal c') ↔ ¬p := by
  by_cases hp : p <;> simp [hp]

/-- Settles O3: one high nibble after the other, by the lemma of its family. -/
theorem illegalWordsAreTheSixClasses : Obligations.IllegalWordsAreTheSixClasses := by
  intro w
  rw [← fieldH_eq_div, ← fieldN_eq_mod, ← fieldKk_toNat, ← decodeZero_illegal_iff, ← decodeEight_illegal_iff,
    ← decodeKey_illegal_iff, ← decodeMisc_illegal_iff]
  unfold decodeWord
  have hlt := fieldH_lt w
  interval_cases fieldH w <;> simp [ite_illegal_iff]

/-! ## Encoding a decoded instruction (R62, R64) -/

section
variable {w : Word} {i : Instr}

theorem formNnn_of_fieldH {h : BitVec 4} (hh : fieldH w = h.toNat) : formNnn h (fieldNnn w) = w := by
  obtain rfl : w.extractLsb' 12 4 = h := BitVec.eq_of_toNat_eq hh
  exact formNnn_fields w

theorem formXkk_of_fieldH {h : BitVec 4} (hh : fieldH w = h.toNat) : formXkk h (fieldX w) (fieldKk w) = w := by
  obtain rfl : w.extractLsb' 12 4 = h := BitVec.eq_of_toNat_eq hh
  exact formXkk_fields w

theorem formXkk_of_fields {h : BitVec 4} {kk : Byte} (hh : fieldH w = h.toNat) (hkk : (fieldKk w).toNat = kk.toNat) :
    formXkk h (fieldX w) kk = w := by
  obtain rfl : fieldKk w = kk := BitVec.eq_of_toNat_eq hkk
  exact formXkk_of_fieldH hh

theorem formXyn_of_fields {h n : BitVec 4} (hh : fieldH w = h.toNat) (hn : fieldN w = n.toNat) :
    formXyn h (fieldX w) (fieldY w) n = w := by
  obtain rfl : w.extractLsb' 12 4 = h := BitVec.eq_of_toNat_eq hh
  obtain rfl : w.extractLsb' 0 4 = n := BitVec.eq_of_toNat_eq hn
  exact formXyn_fields w

/-- The condition of high nibble 5 and 9 is met by every word they accept (R65). -/
theorem ite_eq_instr_iff {p : Prop} [Decidable p] {j : Instr} {c : IllegalClass} :
    (if p then Decoded.instr j else .illegal c) = .instr i ↔ p ∧ j = i := by
  by_cases hp : p <;> simp [hp]

theorem encode_of_decodeZero (hd : decodeZero w = .instr i) : encode i = w ∧ i.wellFormed = true := by
  unfold decodeZero at hd
  split at hd
  · next hw =>
    cases hd
    exact ⟨hw.symm, rfl⟩
  · obtain ⟨hw, rfl⟩ := ite_eq_instr_iff.1 hd
    exact ⟨hw.symm, rfl⟩

theorem encode_of_decodeEight (hh : fieldH w = 8) (hd : decodeEight w = .instr i) :
    encode i = w ∧ i.wellFormed = true := by
  unfold decodeEight at hd
  split at hd <;> cases hd <;> exact ⟨formXyn_of_fields hh ‹_›, rfl⟩

theorem encode_of_decodeKey (hh : fieldH w = 14) (hd : decodeKey w = .instr i) :
    encode i = w ∧ i.wellFormed = true := by
  unfold decodeKey at hd
  split at hd <;> cases hd <;> exact ⟨formXkk_of_fields hh ‹_›, rfl⟩

theorem encode_of_decodeMisc (hh : fieldH w = 15) (hd : decodeMisc w = .instr i) :
    encode i = w ∧ i.wellFormed = true := by
  unfold decodeMisc at hd
  split at hd <;> cases hd <;> exact ⟨formXkk_of_fields hh ‹_›, rfl⟩

/-- The arms of the dispatch, `h_1` to `h_16`, are the high nibbles 0 to F in order (R64). -/
theorem encode_of_decodeWord (hd : decodeWord w = .instr i) : encode i = w ∧ i.wellFormed = true := by
  unfold decodeWord at hd
  split at hd
  case h_1 => exact encode_of_decodeZero hd
  case h_2 hh | h_3 hh | h_11 hh | h_12 hh =>
    cases hd
    exact ⟨formNnn_of_fieldH hh, rfl⟩
  case h_4 hh | h_5 hh | h_7 hh | h_8 hh | h_13 hh =>
    cases hd
    exact ⟨formXkk_of_fieldH hh, rfl⟩
  case h_6 hh | h_10 hh =>
    obtain ⟨hn, rfl⟩ := ite_eq_instr_iff.1 hd
    exact ⟨formXyn_of_fields hh hn, rfl⟩
  case h_9 hh => exact encode_of_decodeEight hh hd
  case h_14 hh =>
    cases hd
    have hn := fieldN_lt w
    exact ⟨formXyn_of_fields hh (Nat.mod_eq_of_lt hn).symm, decide_eq_true hn⟩
  case h_15 hh => exact encode_of_decodeKey hh hd
  case h_16 =>
    have hlt := fieldH_lt w
    have hh : fieldH w = 15 := by
      simp only [imp_false] at *
      omega
    exact encode_of_decodeMisc hh hd

end

/-- Settles O2: every arm of the decoder is the format its instruction is encoded in. -/
theorem encodeOfDecodeIsTheWord : Obligations.EncodeOfDecodeIsTheWord := fun _ _ => encode_of_decodeWord

/-! ## The opcode map (R66) -/

open Laws in
/-- The word of every instruction lies in the instruction's own row. -/
theorem holds_encode (i : Instr) : ∃ r, opcodeTable[i.rowNumber]? = some r ∧ r.holds (encode i) = true :=
  have hrow : OpcodeMap.Statement i :=
    i.rec OpcodeMap.cls OpcodeMap.ret OpcodeMap.jp OpcodeMap.call OpcodeMap.seVxKk OpcodeMap.sneVxKk OpcodeMap.seVxVy
      OpcodeMap.ldVxKk OpcodeMap.addVxKk OpcodeMap.ldVxVy OpcodeMap.orVxVy OpcodeMap.andVxVy OpcodeMap.xorVxVy
      OpcodeMap.addVxVy OpcodeMap.subVxVy OpcodeMap.shrVx OpcodeMap.subnVxVy OpcodeMap.shlVx OpcodeMap.sneVxVy
      OpcodeMap.ldINnn OpcodeMap.jpV0Nnn OpcodeMap.rndVxKk OpcodeMap.drwVxVyN OpcodeMap.skpVx OpcodeMap.sknpVx
      OpcodeMap.ldVxDt OpcodeMap.ldVxK OpcodeMap.ldDtVx OpcodeMap.ldStVx OpcodeMap.addIVx OpcodeMap.ldFVx
      OpcodeMap.ldBVx OpcodeMap.ldIndVx OpcodeMap.ldVxInd
  Option.map_eq_some_iff.1 hrow

/-- The row of the instruction, if there is one. -/
def Decoded.row (d : Decoded) : Option OpcodeRow := d.toOption.bind fun i => opcodeTable[i.rowNumber]?

theorem Decoded.instr_of_row {d : Decoded} {r : OpcodeRow} (hr : d.row = some r) : ∃ i, d = .instr i := by
  cases d with
  | instr i => exact ⟨i, rfl⟩
  | illegal c => cases hr

/-! The dispatch looks at no bit outside the mask of a row, so a word decodes as the row's match word does (R64, R66). -/

section
variable {w m : Word}

theorem fieldH_and (hm : m.extractLsb' 12 4 = BitVec.allOnes 4) : fieldH (w &&& m) = fieldH w := by
  rw [fieldH, BitVec.extractLsb'_and, hm, BitVec.and_allOnes, fieldH]

theorem fieldN_and (hm : m.extractLsb' 0 4 = BitVec.allOnes 4) : fieldN (w &&& m) = fieldN w := by
  rw [fieldN, BitVec.extractLsb'_and, hm, BitVec.and_allOnes, fieldN]

theorem fieldKk_and (hm : m.extractLsb' 0 8 = BitVec.allOnes 8) : fieldKk (w &&& m) = fieldKk w := by
  rw [fieldKk, BitVec.extractLsb'_and, hm, BitVec.and_allOnes, fieldKk]

theorem decodeEight_row_congr (hn : fieldN w = fieldN m) : (decodeEight w).row = (decodeEight m).row := by
  unfold decodeEight
  rw [hn]
  split <;> rfl

theorem decodeKey_row_congr (hkk : fieldKk w = fieldKk m) : (decodeKey w).row = (decodeKey m).row := by
  unfold decodeKey
  rw [hkk]
  split <;> rfl

theorem decodeMisc_row_congr (hkk : fieldKk w = fieldKk m) : (decodeMisc w).row = (decodeMisc m).row := by
  unfold decodeMisc
  rw [hkk]
  split <;> rfl

theorem decodeWord_row_congr_h (hh : fieldH w = fieldH m)
    (hm : fieldH m ∈ [0x1, 0x2, 0x3, 0x4, 0x6, 0x7, 0xA, 0xB, 0xC, 0xD]) : (decodeWord w).row = (decodeWord m).row := by
  unfold decodeWord
  rw [hh]
  generalize fieldH m = d at hm
  fin_cases hm <;> rfl

theorem decodeWord_row_congr_n (hh : fieldH w = fieldH m) (hn : fieldN w = fieldN m) (hm : fieldH m ∈ [0x5, 0x8, 0x9]) :
    (decodeWord w).row = (decodeWord m).row := by
  simp only [List.mem_cons, List.not_mem_nil, or_false] at hm
  obtain hm | hm | hm := hm
  all_goals simp only [decodeWord, hh, hm]
  · rw [hn]
    split <;> rfl
  · exact decodeEight_row_congr hn
  · rw [hn]
    split <;> rfl

theorem decodeWord_row_congr_kk (hh : fieldH w = fieldH m) (hkk : fieldKk w = fieldKk m) (hm : fieldH m ∈ [0xE, 0xF]) :
    (decodeWord w).row = (decodeWord m).row := by
  simp only [List.mem_cons, List.not_mem_nil, or_false] at hm
  obtain hm | hm := hm
  all_goals simp only [decodeWord, hh, hm]
  · exact decodeKey_row_congr hkk
  · exact decodeMisc_row_congr hkk

end

theorem row_matched {r : OpcodeRow} (hr : r ∈ opcodeTable) : (decodeWord r.matched).row = some r :=
  List.map_inj_left.1 (show opcodeTable.map (fun r => (decodeWord r.matched).row) = opcodeTable.map some from rfl) r hr

/-- The four masks of R66, each with the high nibbles of its rows. -/
theorem mask_of_mem_opcodeTable : ∀ r ∈ opcodeTable,
    r.mask = 0xFFFF ∨
    r.mask = 0xF000 ∧ fieldH r.matched ∈ [0x1, 0x2, 0x3, 0x4, 0x6, 0x7, 0xA, 0xB, 0xC, 0xD] ∨
    r.mask = 0xF00F ∧ fieldH r.matched ∈ [0x5, 0x8, 0x9] ∨
    r.mask = 0xF0FF ∧ fieldH r.matched ∈ [0xE, 0xF] := by
  decide

theorem row_of_holds {w : Word} {r : OpcodeRow} (hmem : r ∈ opcodeTable) (hr : r.holds w = true) :
    (decodeWord w).row = some r := by
  rw [← row_matched hmem]
  have hw : r.matched = w &&& r.mask := (beq_iff_eq.1 hr).symm
  have hmask := mask_of_mem_opcodeTable r hmem
  rw [hw] at hmask ⊢
  obtain hmask | ⟨hmask, hh⟩ | ⟨hmask, hh⟩ | ⟨hmask, hh⟩ := hmask
  · rw [hmask]
    exact congrArg (fun v => (decodeWord v).row) BitVec.and_allOnes.symm
  · exact decodeWord_row_congr_h (fieldH_and (hmask ▸ rfl)).symm hh
  · exact decodeWord_row_congr_n (fieldH_and (hmask ▸ rfl)).symm (fieldN_and (hmask ▸ rfl)).symm hh
  · exact decodeWord_row_congr_kk (fieldH_and (hmask ▸ rfl)).symm (fieldKk_and (hmask ▸ rfl)).symm hh

theorem row_of_decodeWord {w : Word} {i : Instr} (hd : decodeWord w = .instr i) :
    ∃ r, opcodeTable[i.rowNumber]? = some r ∧ r.holds w = true := by
  obtain ⟨rfl, -⟩ := encode_of_decodeWord hd
  exact holds_encode i

/-- Settles O4: an instruction's word lies in its row, and a row that matches a word is the row of what the word decodes
to. -/
theorem opcodeMapDecidesLegality : Obligations.OpcodeMapDecidesLegality := by
  refine ⟨fun w => ⟨?_, ?_⟩, fun _ _ => row_of_decodeWord, ?_⟩
  · rintro ⟨i, hd⟩
    obtain ⟨r, hrow, hr⟩ := row_of_decodeWord hd
    exact ⟨r, List.mem_of_getElem? hrow, hr⟩
  · rintro ⟨r, hmem, hr⟩
    exact Decoded.instr_of_row (row_of_holds hmem hr)
  · intro w r hmem r' hmem' hr hr'
    exact Option.some.inj ((row_of_holds hmem hr).symm.trans (row_of_holds hmem' hr'))

/-! ## Words written out -/

/-- Settles O5: by evaluation of the decoder on fifteen closed words. -/
theorem wordsOfEachFormatDecode : Obligations.WordsOfEachFormatDecode := by
  unfold Obligations.WordsOfEachFormatDecode
  decide

end Sys2Proof
end

section
/-!
PROOFS. The engine (`40_engine.md`): what the fetch reads as numbers, the branch a slot takes when its premises are known, the
fault entries, and that every slot answers a next state.
-/
namespace Sys2Proof

/-- A word of format `F_NNN` as a number (R62). -/
theorem formNnn_toNat (h : BitVec 4) (nnn : Addr) : (formNnn h nnn).toNat = h.toNat * 4096 + nnn.toNat := by
  rw [formNnn, BitVec.toNat_append, ← Nat.shiftLeft_add_eq_or_of_lt nnn.isLt, Nat.shiftLeft_eq]

end Sys2Proof

namespace Sys2Proof.Machine

section
variable {s : State}

/-! ## Fetch (R41, R81) -/

/-- The word fetched, with its two addresses taken from the number of the pc. -/
theorem State.fetchWord_toNat_ofNat (s : State) :
    s.fetchWord.toNat = (s.memRead (BitVec.ofNat 12 s.pc.toNat)).toNat * 256 +
      (s.memRead (BitVec.ofNat 12 (s.pc.toNat + 1))).toNat := by
  have hlow : (s.pc + 1).setWidth 12 = BitVec.ofNat 12 (s.pc.toNat + 1) := by bv_omega
  rw [State.fetchWord_toNat, hlow, BitVec.ofNat_toNat]

theorem State.fetchWord_eq {w : Word}
    (hw : w.toNat = (s.memRead (BitVec.ofNat 12 s.pc.toNat)).toNat * 256 +
      (s.memRead (BitVec.ofNat 12 (s.pc.toNat + 1))).toNat) : s.fetchWord = w :=
  BitVec.eq_of_toNat_eq (s.fetchWord_toNat_ofNat.trans hw.symm)

/-! ## The branches of a slot (R81, R83, R86, R91) -/

theorem step_of_not_running (hm : s.mode ≠ .running) : step s = .next s := by
  obtain ⟨-, he⟩ | ⟨hr, -⟩ | ⟨hr, -⟩ | ⟨hr, -⟩ := step_cases s
  · exact he
  all_goals exact absurd hr hm

theorem step_of_pc_beyond (hm : s.mode = .running) (hpc : s.pc.toNat > 0x0FFE) :
    step s = .next (s.raise .fetchFault s.pc none) := by
  obtain ⟨hn, -⟩ | ⟨-, -, he⟩ | ⟨-, hle, -⟩ | ⟨-, hle, -⟩ := step_cases s
  · exact absurd hm hn
  · exact he
  all_goals exact absurd hpc hle.not_gt

theorem step_of_illegal {c : IllegalClass} (hm : s.mode = .running) (hpc : s.pc.toNat ≤ 0x0FFE)
    (hd : decodeWord s.fetchWord = .illegal c) :
    step s = .next (s.advancePc.raise .decodeFault s.pc (some s.fetchWord)) := by
  obtain ⟨hn, -⟩ | ⟨-, hgt, -⟩ | ⟨-, -, -, -, he⟩ | ⟨-, -, i, hi, -⟩ := step_cases s
  · exact absurd hm hn
  · exact absurd hgt hpc.not_gt
  · exact he
  · cases hd.symm.trans hi

theorem step_of_instr {i : Instr} (hm : s.mode = .running) (hpc : s.pc.toNat ≤ 0x0FFE)
    (hd : decodeWord s.fetchWord = .instr i) : step s = exec i s := by
  obtain ⟨hn, -⟩ | ⟨-, hgt, -⟩ | ⟨-, -, c, hc, -⟩ | ⟨-, -, j, hj, he⟩ := step_cases s
  · exact absurd hm hn
  · exact absurd hgt hpc.not_gt
  · cases hd.symm.trans hc
  · obtain rfl : i = j := Decoded.instr.inj (hd.symm.trans hj)
    exact he

/-! ## The stack faults (R84, R101, R103) -/

theorem execRet_of_empty (hsp : s.sp.val = 0) :
    exec .ret s = .next (s.advancePc.raise .stackUnderflow s.pc (some (encode .ret))) := by
  obtain ⟨-, he⟩ | ⟨w, t, hpop, -⟩ := execRet_cases s
  · exact he
  · cases hpop.symm.trans (State.pop?_eq_none.2 hsp)

theorem execCall_of_full (nnn : Addr) (hsp : s.sp.val = 16) :
    exec (.call nnn) s = .next (s.advancePc.raise .stackOverflow s.pc (some (encode (.call nnn)))) := by
  obtain ⟨-, he⟩ | ⟨t, hpush, -⟩ := execCall_cases nnn s
  · exact he
  · cases hpush.symm.trans (State.push?_eq_none.2 hsp)

/-! ## What a fault entry leaves (R90, R204) -/

theorem State.onlyFaultEntry_raise (s : State) (kind : FaultKind) (addr : Word) (opcode : Option Word) :
    OnlyFaultEntry s (s.raise kind addr opcode) :=
  ⟨rfl, rfl, rfl, rfl, rfl, rfl, ⟨rfl, fun _ _ => rfl⟩, rfl, rfl⟩

/-- The pc, which a fault after the fetch has incremented, is not among what `OnlyFaultEntry` compares. -/
theorem State.onlyFaultEntry_raise_advancePc (s : State) (kind : FaultKind) (addr : Word) (opcode : Option Word) :
    OnlyFaultEntry s (s.advancePc.raise kind addr opcode) :=
  s.advancePc.onlyFaultEntry_raise kind addr opcode

end

/-! ## Every instruction answers a next state (R86, R92) -/

/-- The two instructions that can fault answer the faulted state; no other instruction has more than one outcome. -/
theorem exec_answers (i : Instr) (s : State) : ∃ t, exec i s = .next t := by
  cases i with
  | ret =>
    obtain ⟨-, he⟩ | ⟨w, t, -, he⟩ := execRet_cases s <;> exact ⟨_, he⟩
  | call nnn =>
    obtain ⟨-, he⟩ | ⟨t, -, he⟩ := execCall_cases nnn s <;> exact ⟨_, he⟩
  | _ => exact ⟨_, rfl⟩

/-! ## The statements -/

/-- Settles O11: the slot is idle, a fault entry or an instruction, and each of these answers a state. -/
theorem everySlotAnswers : Obligations.EverySlotAnswers := by
  intro s
  obtain ⟨-, he⟩ | ⟨-, -, he⟩ | ⟨-, -, c, -, he⟩ | ⟨-, -, i, -, he⟩ := step_cases s
  · exact ⟨_, he⟩
  · exact ⟨_, he⟩
  · exact ⟨_, he⟩
  · rw [he]
    exact exec_answers i s

/-- Settles O6: the word of the two bytes is the word fetched. -/
theorem stepRunsTheDecodedInstruction : Obligations.StepRunsTheDecodedInstruction := by
  intro s w i hm hpc hw hd
  obtain rfl := State.fetchWord_eq hw
  exact step_of_instr hm hpc hd

/-- Settles O7: a fetch fault is raised before the pc is incremented. -/
theorem fetchFaultEntry : Obligations.FetchFaultEntry := fun s hm hpc =>
  ⟨_, step_of_pc_beyond hm hpc, rfl, rfl, rfl, s.onlyFaultEntry_raise _ _ _⟩

/-- Settles O8: the illegal word of the two bytes is the word fetched, and the fault is raised before the tick. -/
theorem decodeFaultEntry : Obligations.DecodeFaultEntry := by
  intro s w c hm hpc hw hd
  obtain rfl := State.fetchWord_eq hw
  exact ⟨_, step_of_illegal hm hpc hd, rfl, rfl, rfl, s.onlyFaultEntry_raise_advancePc _ _ _⟩

/-- Settles O9: both faults are raised before the tick, and the opcode recorded is the encoding of the instruction. -/
theorem stackFaultEntry : Obligations.StackFaultEntry :=
  ⟨fun s hsp => ⟨_, execRet_of_empty hsp, rfl, rfl, rfl, s.onlyFaultEntry_raise_advancePc _ _ _⟩,
    fun nnn s hsp => ⟨_, _, execCall_of_full nnn hsp, formNnn_toNat 0x2 nnn, rfl, rfl, rfl,
      s.onlyFaultEntry_raise_advancePc _ _ _⟩⟩

/-- Settles O10: the idle branch of the slot. -/
theorem idleSlotChangesNothing : Obligations.IdleSlotChangesNothing := fun _ => step_of_not_running

end Sys2Proof.Machine
end

section
/-!
PROOFS. Control transfer (`41_flow.md`): the targets of the jumps, the pc after a skip, what a return and a call do to the stack,
and what all of these leave unchanged.
-/
namespace Sys2Proof.Machine

/-! ## Frames (R86, R215) -/

section
variable {w : Written} {s t : State}

theorem SameStack.refl (s : State) : SameStack s s := ⟨rfl, fun _ _ => rfl⟩

/-- Before its effect, an instruction has advanced the pc and ticked the timers, and nothing else. -/
theorem frame_preState (s : State) : Frame {} s s.preState :=
  ⟨fun _ _ => rfl, fun _ _ => rfl, fun _ => rfl, fun _ => countDown_toNat s.dt, fun _ => countDown_toNat s.st, fun _ => rfl,
    fun _ => SameStack.refl s, fun _ => rfl, fun _ => rfl, rfl, rfl⟩

/-- A frame does not speak of the pc. -/
theorem Frame.jump (h : Frame w s t) (target : Word) : Frame w s (t.jump target) := h

theorem Frame.skipIf (h : Frame w s t) (c : Bool) : Frame w s (t.skipIf c) := by
  cases c with
  | false => exact h
  | true => exact h.jump _

theorem Frame.setStack (h : Frame w s t) (k : Vector Word 16) (n : Fin 17) :
    Frame { w with stack := true } s (t.setStack k n) := by
  obtain ⟨hreg, hmem, hi, hdt, hst, hfb, -, hrest⟩ := h
  exact ⟨hreg, hmem, hi, hdt, hst, hfb, nofun, hrest⟩

end

/-! ## Targets of the jumps (R102, R104) -/

@[simp] theorem zextAddr_toNat (nnn : Addr) : (zextAddr nnn).toNat = nnn.toNat :=
  BitVec.toNat_setWidth_of_le (by decide)

/-- A 12-bit address and a byte add up within 16 bits. -/
theorem zextAddr_add_zextByte_toNat (nnn : Addr) (b : Byte) : (zextAddr nnn + zextByte b).toNat = nnn.toNat + b.toNat := by
  unfold zextAddr zextByte
  bv_omega

/-! ## The pc after a skip (R105 to R108) -/

section
variable (s : State) (a b : Byte)

theorem State.skipIf_preState_pc (c : Bool) :
    (s.preState.skipIf c).pc = if c then s.pc + 4 else s.pc + 2 := by
  rw [State.skipIf_pc, State.preState_pc, BitVec.add_assoc]
  rfl

theorem State.skipIf_beq_preState_pc :
    (s.preState.skipIf (a == b)).pc = if a = b then s.pc + 4 else s.pc + 2 := by
  simp only [State.skipIf_preState_pc, beq_iff_eq]

theorem State.skipIf_bne_preState_pc :
    (s.preState.skipIf (a != b)).pc = if a = b then s.pc + 2 else s.pc + 4 := by
  simp only [State.skipIf_preState_pc, bne_iff_ne, ne_eq, ite_not]

end

/-! ## The words of the register skips (R65, R68) -/

section
variable (x y : RegIdx) {n : BitVec 4}

theorem decodeWord_five_illegal (hn : n ≠ 0) : decodeWord (formXyn 0x5 x y n) = .illegal .fiveFamily := by
  have hlow : n.toNat ≠ 0 := BitVec.toNat_ne_iff_ne.2 hn
  simp [decodeWord, hlow]

theorem decodeWord_nine_illegal (hn : n ≠ 0) : decodeWord (formXyn 0x9 x y n) = .illegal .nineFamily := by
  have hlow : n.toNat ≠ 0 := BitVec.toNat_ne_iff_ne.2 hn
  simp [decodeWord, hlow]

end

/-! ## The stack instructions that do not fault (R101, R103) -/

section
variable {s : State} {j : Fin 16}

/-- With entry `j` the newest, a return goes to it and leaves `j` entries in use. -/
theorem execRet_of_newest (hsp : s.sp.val = j.val + 1) :
    exec .ret s = .next ((s.preState.setStack s.stack j.castSucc).jump (s.stack.get j)) := by
  obtain ⟨hempty, -⟩ | ⟨w, t, hpop, he⟩ := execRet_cases s
  · omega
  · obtain ⟨-, htsp, hget, ht⟩ := State.pop?_some hpop
    obtain rfl : w = s.stack.get j := hget j hsp.symm
    have hj : t.sp = j.castSucc := Fin.ext (htsp.trans (Nat.sub_eq_of_eq_add hsp))
    rw [he, ht, hj]
    rfl

/-- With entry `j` the first free one, a call writes the address of the following opcode to it and leaves `j + 1` entries in
use. -/
theorem execCall_of_free (nnn : Addr) (hsp : s.sp.val = j.val) :
    ∃ k : Vector Word 16, exec (.call nnn) s = .next ((s.preState.setStack k j.succ).jump (zextAddr nnn)) ∧
      ∀ l, k.get l = if j.val = l.val then s.pc + 2 else s.stack.get l := by
  obtain ⟨hfull, -⟩ | ⟨t, hpush, he⟩ := execCall_cases nnn s
  · omega
  · obtain ⟨-, htsp, hget, ht⟩ := State.push?_some hpush
    have hj : t.sp = j.succ := Fin.ext (htsp.trans (congrArg (· + 1) hsp))
    refine ⟨t.stack, ?_, hsp ▸ hget⟩
    rw [he, ht, hj]
    rfl

end

/-! ## The statements -/

/-- Settles O35: a jump zero-extends its target. -/
theorem jumpResult : Obligations.JumpResult := fun nnn _ => ⟨_, rfl, zextAddr_toNat nnn, rfl, rfl⟩

/-- Settles O36: the sum has no carry out of 16 bits. -/
theorem jumpWithOffsetResult : Obligations.JumpWithOffsetResult := fun nnn s =>
  ⟨_, rfl, zextAddr_add_zextByte_toNat nnn (s.reg 0), rfl, SameStack.refl s, rfl⟩

/-- Settles O37: the two skips of R105 and R106 with the pc that each leaves. -/
theorem skipOnImmediateResult : Obligations.SkipOnImmediateResult := fun x kk s =>
  ⟨⟨_, rfl, s.skipIf_beq_preState_pc (s.reg x) kk, s.preState.skipIf_v _, s.preState.skipIf_mode _⟩,
    ⟨_, rfl, s.skipIf_bne_preState_pc (s.reg x) kk, s.preState.skipIf_v _, s.preState.skipIf_mode _⟩⟩

/-- Settles O38: the two skips of R107 and R108 with the pc that each leaves, and the words next to theirs. -/
theorem skipOnRegistersResult : Obligations.SkipOnRegistersResult := fun x y s =>
  ⟨⟨_, rfl, s.skipIf_beq_preState_pc (s.reg x) (s.reg y), s.preState.skipIf_v _, s.preState.skipIf_mode _⟩,
    ⟨_, rfl, s.skipIf_bne_preState_pc (s.reg x) (s.reg y), s.preState.skipIf_v _, s.preState.skipIf_mode _⟩,
    fun _ hn => ⟨decodeWord_five_illegal x y hn, decodeWord_nine_illegal x y hn⟩⟩

/-- Settles O39: a return writes no stack entry, only the count. -/
theorem returnResult : Obligations.ReturnResult := fun s _ hsp =>
  ⟨_, execRet_of_newest hsp, rfl, rfl, fun _ _ => rfl, ((frame_preState s).setStack _ _).jump _⟩

/-- Settles O40: a call writes the first free entry and no entry below. -/
theorem callResult : Obligations.CallResult := by
  intro nnn s j hsp
  obtain ⟨k, he, hget⟩ := execCall_of_free nnn hsp
  refine ⟨_, he, zextAddr_toNat nnn, rfl, ?_, fun l hl => ?_, ((frame_preState s).setStack _ _).jump _⟩
  · exact (hget j).trans (if_pos rfl)
  · exact (hget l).trans (if_neg hl.ne')

/-- Settles O41: the newest entry that the return takes off is the one that the call pushed. -/
theorem returnAfterCallComesBack : Obligations.ReturnAfterCallComesBack := by
  intro nnn s hroom
  obtain ⟨t, hcall, -, htsp, hpushed, hbelow, -⟩ := callResult nnn s ⟨s.sp.val, hroom⟩ rfl
  obtain ⟨u, hret, hupc, husp, hkept, -⟩ := returnResult t ⟨s.sp.val, hroom⟩ htsp
  exact ⟨t, hcall, u, hret, hupc.trans hpushed, Fin.ext husp, fun l hl => (hkept l hl).trans (hbelow l hl)⟩

/-- Settles O56: the two jumps and the six skips touch the pre-state in its pc only. -/
theorem jumpAndSkipFrame : Obligations.JumpAndSkipFrame := by
  intro x y kk nnn s
  have hjump (target : Word) := (frame_preState s).jump target
  have hskip (c : Bool) := (frame_preState s).skipIf c
  simp only [List.forall_mem_cons]
  exact ⟨⟨_, rfl, hjump _⟩, ⟨_, rfl, hjump _⟩, ⟨_, rfl, hskip _⟩, ⟨_, rfl, hskip _⟩, ⟨_, rfl, hskip _⟩, ⟨_, rfl, hskip _⟩,
    ⟨_, rfl, hskip _⟩, ⟨_, rfl, hskip _⟩, List.forall_mem_nil _⟩

end Sys2Proof.Machine
end

section
/-!
PROOFS. Register and arithmetic (`42_alu.md`): the values the one-register writes and the flag-and-result writes leave, the flags
as numbers, and what these instructions leave unchanged.
-/
namespace Sys2Proof.Machine

/-! ## Frames (R86, R120) -/

section
variable {w : Written} {s t : State}

theorem Frame.setReg (h : Frame w s t) (x : RegIdx) (b : Byte) :
    Frame { w with regs := x :: w.regs } s (t.setReg x b) := by
  obtain ⟨hreg, hrest⟩ := h
  refine ⟨fun r hr => ?_, hrest⟩
  have hne : x ≠ r := (List.ne_of_not_mem_cons hr).symm
  exact (t.reg_setReg_ne b hne).trans (hreg r (List.not_mem_of_not_mem_cons hr))

theorem Frame.writeFlagThenResult (h : Frame w s t) (x : RegIdx) (f b : Byte) :
    Frame { w with regs := x :: flagReg :: w.regs } s (t.writeFlagThenResult x f b) :=
  (h.setReg flagReg f).setReg x b

theorem Frame.countDraw (h : Frame w s t) : Frame { w with draws := true } s t.countDraw := by
  obtain ⟨hreg, hmem, hi, hdt, hst, hfb, hstack, hmode, -, hrest⟩ := h
  exact ⟨hreg, hmem, hi, hdt, hst, hfb, hstack, hmode, nofun, hrest⟩

end

/-! ## Registers after a flag and a result are written (R88, D9) -/

section
variable (s : State) {x : RegIdx} {f b : Byte} {n : Nat}

/-- The result is written last, so it stands with `x = 0xF` too. -/
theorem State.result_writeFlagThenResult_toNat (hb : b.toNat = n) : ((s.writeFlagThenResult x f b).reg x).toNat = n := by
  rwa [State.reg_writeFlagThenResult, if_pos rfl]

theorem State.flag_writeFlagThenResult_toNat (hf : f.toNat = n) (hx : x ≠ 15) :
    ((s.writeFlagThenResult x f b).reg 15).toNat = n := by
  rwa [State.reg_writeFlagThenResult, if_neg hx, if_pos (show flagReg = 15 from rfl)]

end

/-! ## Flags as numbers (R127 to R131) -/

section
variable (a b : Byte)

theorem carryFlag_toNat : (carryFlag a b).toNat = if a.toNat + b.toNat > 255 then 1 else 0 := by
  simp only [carryFlag, flagByte_toNat, decide_eq_true_eq]

theorem greaterFlag_toNat : (greaterFlag a b).toNat = if a.toNat > b.toNat then 1 else 0 := by
  simp only [greaterFlag, flagByte_toNat, decide_eq_true_eq]

theorem notGreaterFlag_toNat : (notGreaterFlag a b).toNat = if a.toNat > b.toNat then 0 else 1 := by
  simp only [notGreaterFlag, flagByte_toNat, Bool.not_eq_true', decide_eq_false_iff_not, ite_not]

/-- A flag that holds a bit of a byte holds that binary digit. -/
theorem flagByte_getLsbD_toNat (k : Nat) : (flagByte (a.getLsbD k)).toNat = a.toNat / 2 ^ k % 2 := by
  rw [flagByte_toNat, BitVec.getLsbD, Nat.testBit_eq_decide_div_mod_eq]
  obtain hbit | hbit := Nat.mod_two_eq_zero_or_one (a.toNat / 2 ^ k)
  · simp [hbit]
  · simp [hbit]

theorem lowBitFlag_toNat : (lowBitFlag a).toNat = a.toNat % 2 := by
  rw [lowBitFlag, flagByte_getLsbD_toNat, Nat.pow_zero, Nat.div_one]

theorem highBitFlag_toNat : (highBitFlag a).toNat = a.toNat / 128 := by
  have := a.isLt
  rw [highBitFlag, flagByte_getLsbD_toNat]
  omega

end

/-! ## Differences and shifts as numbers (R128 to R131) -/

section
variable (a b : Byte)

theorem toNat_sub_byte : (a - b).toNat = (256 + a.toNat - b.toNat) % 256 := by
  have := b.isLt
  rw [BitVec.toNat_sub]
  omega

theorem toNat_ushiftRight_one : (a >>> 1).toNat = a.toNat / 2 := by
  rw [BitVec.toNat_ushiftRight, Nat.shiftRight_one]

theorem toNat_shiftLeft_one : (a <<< 1).toNat = a.toNat * 2 % 256 := by
  rw [BitVec.toNat_shiftLeft, Nat.shiftLeft_eq]

end

/-! ## The statements -/

/-- Settles O54: seven instructions set one register of the pre-state, a draw counts itself too. -/
theorem registerWriteFrame : Obligations.RegisterWriteFrame := by
  intro x y kk s
  have hset (b : Byte) := (frame_preState s).setReg x b
  simp only [List.forall_mem_cons]
  exact ⟨⟨⟨_, rfl, hset _⟩, ⟨_, rfl, hset _⟩, ⟨_, rfl, hset _⟩, ⟨_, rfl, hset _⟩, ⟨_, rfl, hset _⟩, ⟨_, rfl, hset _⟩,
    ⟨_, rfl, hset _⟩, List.forall_mem_nil _⟩, ⟨_, rfl, (hset _).countDraw⟩⟩

/-- Settles O55: the five instructions write a flag and a result into the pre-state. -/
theorem flagWriteFrame : Obligations.FlagWriteFrame := by
  intro x y s
  have hwrite (f b : Byte) := (frame_preState s).writeFlagThenResult x f b
  simp only [List.forall_mem_cons]
  exact ⟨⟨_, rfl, hwrite _ _⟩, ⟨_, rfl, hwrite _ _⟩, ⟨_, rfl, hwrite _ _⟩, ⟨_, rfl, hwrite _ _⟩, ⟨_, rfl, hwrite _ _⟩,
    List.forall_mem_nil _⟩

/-- Settles O28: one register of the pre-state is set to the immediate. -/
theorem loadImmediateResult : Obligations.LoadImmediateResult := fun x kk s =>
  ⟨_, rfl, s.preState.reg_setReg_same x kk, s.preState.reg_setReg_ne kk, rfl, rfl⟩

/-- Settles O29: one register of the pre-state is set to the 8-bit sum. -/
theorem addImmediateResult : Obligations.AddImmediateResult := by
  intro x kk s
  refine ⟨_, rfl, ?_, s.preState.reg_setReg_ne _, rfl, rfl⟩
  rw [State.reg_setReg_same]
  exact BitVec.toNat_add _ _

/-- Settles O30: one register of the pre-state is set to the copy or the bitwise result. -/
theorem copyAndLogicResult : Obligations.CopyAndLogicResult := by
  intro x y s
  have hVF (b : Byte) : x ≠ 15 → (s.preState.setReg x b).reg 15 = s.reg 15 := s.preState.reg_setReg_ne b
  refine ⟨⟨_, rfl, s.preState.reg_setReg_same _ _, hVF _, rfl, rfl⟩, ⟨_, rfl, fun k => ?_, hVF _, rfl, rfl⟩,
    ⟨_, rfl, fun k => ?_, hVF _, rfl, rfl⟩, ⟨_, rfl, fun k => ?_, hVF _, rfl, rfl⟩⟩
  all_goals rw [State.reg_setReg_same]
  · exact BitVec.getLsbD_or
  · exact BitVec.getLsbD_and
  · exact BitVec.getLsbD_xor

/-- Settles O31: the carry is written first, the 8-bit sum last. -/
theorem addWithCarryResult : Obligations.AddWithCarryResult := fun x y s =>
  ⟨_, rfl, s.preState.result_writeFlagThenResult_toNat (BitVec.toNat_add (s.reg x) (s.reg y)),
    s.preState.flag_writeFlagThenResult_toNat (carryFlag_toNat (s.reg x) (s.reg y)), rfl, rfl⟩

/-- Settles O32: the two differences with the flag that each writes first. -/
theorem subtractResults : Obligations.SubtractResults := fun x y s =>
  ⟨⟨_, rfl, s.preState.result_writeFlagThenResult_toNat (toNat_sub_byte (s.reg x) (s.reg y)),
      s.preState.flag_writeFlagThenResult_toNat (greaterFlag_toNat (s.reg x) (s.reg y)), rfl⟩,
    ⟨_, rfl, s.preState.result_writeFlagThenResult_toNat (toNat_sub_byte (s.reg y) (s.reg x)),
      s.preState.flag_writeFlagThenResult_toNat (notGreaterFlag_toNat (s.reg x) (s.reg y)), rfl⟩⟩

/-- Settles O33: the two shifts of `Vx` with the bit that each writes first; neither reads the field `y`. -/
theorem shiftResults : Obligations.ShiftResults := fun x _ s =>
  ⟨⟨_, rfl, s.preState.result_writeFlagThenResult_toNat (toNat_ushiftRight_one (s.reg x)),
      s.preState.flag_writeFlagThenResult_toNat (lowBitFlag_toNat (s.reg x)), rfl⟩,
    ⟨_, rfl, s.preState.result_writeFlagThenResult_toNat (toNat_shiftLeft_one (s.reg x)),
      s.preState.flag_writeFlagThenResult_toNat (highBitFlag_toNat (s.reg x)), rfl⟩⟩

/-- Settles O34: the free byte of this draw is masked bit by bit, and the draw is counted. -/
theorem randomByteResult : Obligations.RandomByteResult := by
  intro x kk s
  refine ⟨_, rfl, fun k => ?_, rfl, rfl⟩
  rw [State.countDraw_reg, State.reg_setReg_same]
  exact BitVec.getLsbD_and

end Sys2Proof.Machine
end

section
/-!
PROOFS. Index register and memory (`43_index_memory.md`): the index values as numbers, the three decimal digits and the register
ranges in memory, and what these instructions, the timer setters and the key wait leave unchanged.
-/
namespace Sys2Proof.Machine

/-! ## Frames (R86, R140, R173, R180) -/

section
variable {w : Written} {s t : State}

theorem Frame.setIndex (h : Frame w s t) (v : Word) : Frame { w with index := true } s (t.setIndex v) := by
  obtain ⟨hreg, hmem, -, hrest⟩ := h
  exact ⟨hreg, hmem, nofun, hrest⟩

theorem Frame.setDelay (h : Frame w s t) (b : Byte) : Frame { w with delay := true } s (t.setDelay b) := by
  obtain ⟨hreg, hmem, hi, -, hrest⟩ := h
  exact ⟨hreg, hmem, hi, nofun, hrest⟩

theorem Frame.setSound (h : Frame w s t) (b : Byte) : Frame { w with sound := true } s (t.setSound b) := by
  obtain ⟨hreg, hmem, hi, hdt, -, hrest⟩ := h
  exact ⟨hreg, hmem, hi, hdt, nofun, hrest⟩

theorem Frame.setMode (h : Frame w s t) (m : Mode) : Frame { w with mode := true } s (t.setMode m) := by
  obtain ⟨hreg, hmem, hi, hdt, hst, hfb, hstack, -, hrest⟩ := h
  exact ⟨hreg, hmem, hi, hdt, hst, hfb, hstack, nofun, hrest⟩

/-- What writes nothing keeps every frame. -/
theorem Frame.of_nothing (h : Frame {} s t) (w : Written) : Frame w s t := by
  obtain ⟨hreg, hmem, hi, hdt, hst, hfb, hstack, hmode, hdraws, hrest⟩ := h
  exact ⟨fun r _ => hreg r List.not_mem_nil, fun a _ => hmem a List.not_mem_nil, fun _ => hi rfl, fun _ => hdt rfl,
    fun _ => hst rfl, fun _ => hfb rfl, fun _ => hstack rfl, fun _ => hmode rfl, fun _ => hdraws rfl, hrest⟩

theorem Frame.memWrite (h : Frame w s t) {a : Addr} (ha : a ∈ w.mem) (b : Byte) : Frame w s (t.memWrite a b) := by
  obtain ⟨hreg, hmem, hrest⟩ := h
  refine ⟨hreg, fun c hc => ?_, hrest⟩
  have hne : a ≠ c := ne_of_mem_of_not_mem ha hc
  exact (t.memRead_memWrite_ne b hne).trans (hmem c hc)

theorem Frame.storeRegs (h : Frame w s t) {ks : List RegIdx} (hks : ∀ k ∈ ks, t.ea k.val ∈ w.mem) :
    Frame w s (t.storeRegs ks) := by
  induction ks generalizing t with
  | nil => exact h
  | cons k ks ih =>
    obtain ⟨hk, hks⟩ := List.forall_mem_cons.1 hks
    exact ih (h.memWrite hk _) hks

theorem Frame.loadRegs (h : Frame w s t) {ks : List RegIdx} (hks : ks ⊆ w.regs) : Frame w s (t.loadRegs ks) := by
  obtain ⟨hreg, hrest⟩ := h
  refine ⟨fun r hr => ?_, ?_⟩
  · exact (State.reg_loadRegs_of_not_mem (mt (hks ·) hr)).trans (hreg r hr)
  · rw [State.loadRegs_keeps]
    exact hrest

end

/-! ## Index values as numbers (R142, R143) -/

@[simp] theorem zextByte_toNat (b : Byte) : (zextByte b).toNat = b.toNat := BitVec.toNat_setWidth_of_le (by decide)

theorem add_zextByte_toNat (w : Word) (b : Byte) : (w + zextByte b).toNat = (w.toNat + b.toNat) % 65536 := by
  rw [BitVec.toNat_add, zextByte_toNat]

/-- Five times a byte fits in 16 bits. -/
theorem glyphAddress_toNat (b : Byte) : (glyphAddress b).toNat = b.toNat * 5 := by
  have := b.isLt
  exact Nat.mod_eq_of_lt (by omega)

/-! ## Decimal digits (R144) -/

section
variable (b : Byte)

theorem hundreds_toNat : (hundreds b).toNat = b.toNat / 100 := by
  have := b.isLt
  exact Nat.mod_eq_of_lt (by omega)

theorem tens_toNat : (tens b).toNat = b.toNat / 10 % 10 := Nat.mod_eq_of_lt (by omega)

theorem units_toNat : (units b).toNat = b.toNat % 10 := Nat.mod_eq_of_lt (by omega)

end

/-! ## Data addresses (R43) -/

section
variable {s : State} {a : Addr} {j k : Nat}

theorem State.eq_ea (ha : a.toNat = (s.i.toNat + k) % 4096) : a = s.ea k :=
  BitVec.eq_of_toNat_eq (ha.trans (s.ea_toNat k).symm)

theorem State.ea_ne (hj : j < 16) (hk : k < 16) (hne : j ≠ k) : s.ea j ≠ s.ea k := mt (s.ea_inj hj hk) hne

end

/-! ## Three bytes in memory (R144) -/

/-- The digits of `b` at the first three data addresses, in the order of R144. -/
def State.storeDigits (s : State) (b : Byte) : State :=
  ((s.memWrite (s.ea 0) (hundreds b)).memWrite (s.ea 1) (tens b)).memWrite (s.ea 2) (units b)

theorem exec_ldBVx (x : RegIdx) (s : State) : exec (.ldBVx x) s = .next (s.preState.storeDigits (s.reg x)) := rfl

section
variable (s : State) (b : Byte)

theorem State.memRead_storeDigits_hundreds : (s.storeDigits b).memRead (s.ea 0) = hundreds b := by
  rw [State.storeDigits, State.memRead_memWrite_ne, State.memRead_memWrite_ne, State.memRead_memWrite_same]
  all_goals exact State.ea_ne (by decide) (by decide) (by decide)

theorem State.memRead_storeDigits_tens : (s.storeDigits b).memRead (s.ea 1) = tens b := by
  rw [State.storeDigits, State.memRead_memWrite_ne, State.memRead_memWrite_same]
  exact State.ea_ne (by decide) (by decide) (by decide)

theorem State.memRead_storeDigits_units : (s.storeDigits b).memRead (s.ea 2) = units b := State.memRead_memWrite_same _ _ _

end

/-! ## Register ranges (R145, R146) -/

section
variable (s : State) {x k : RegIdx} {a : Addr}

@[simp] theorem State.storeRegs_i (ks : List RegIdx) : (s.storeRegs ks).i = s.i := by
  rw [State.storeRegs_keeps]

@[simp] theorem State.loadRegs_i (ks : List RegIdx) : (s.loadRegs ks).i = s.i := by
  rw [State.loadRegs_keeps]

@[simp] theorem State.loadRegs_pc (ks : List RegIdx) : (s.loadRegs ks).pc = s.pc := by
  rw [State.loadRegs_keeps]

/-- After `V0` to `Vx` are loaded, `V[k]` is the byte at the `k`-th data address, given as a number (R43, R146). -/
theorem State.reg_loadRegs_regsUpTo (hk : k ≤ x) (ha : a.toNat = (s.i.toNat + k.val) % 4096) :
    (s.loadRegs (regsUpTo x)).reg k = s.memRead a := by
  rw [State.reg_loadRegs, if_pos (mem_regsUpTo.2 hk), State.eq_ea ha]

theorem State.reg_loadRegs_regsUpTo_of_lt (hk : x < k) : (s.loadRegs (regsUpTo x)).reg k = s.reg k :=
  State.reg_loadRegs_of_not_mem (mt mem_regsUpTo.1 hk.not_ge)

/-- The data addresses of `V0` to `Vx` are those of the offsets 0 to `x`. -/
theorem State.ea_mem_map_range (hk : k ∈ regsUpTo x) : s.ea k.val ∈ (List.range (x.val + 1)).map s.ea :=
  List.mem_map_of_mem (List.mem_range.2 (Nat.lt_succ_of_le (mem_regsUpTo.1 hk)))

end

/-! ## The statements -/

/-- Settles O44: the range store reaches each of its addresses once. -/
theorem storeRegistersResult : Obligations.StoreRegistersResult := fun _ s =>
  ⟨_, rfl, fun _ _ => s.preState.memRead_storeRegs_regsUpTo, s.preState.storeRegs_i _, s.preState.storeRegs_pc _⟩

/-- Settles O45: a listed register is loaded from its own address, one above `Vx` is not listed. -/
theorem loadRegistersResult : Obligations.LoadRegistersResult := fun _ s =>
  ⟨_, rfl, fun _ _ => s.preState.reg_loadRegs_regsUpTo, fun _ => s.preState.reg_loadRegs_regsUpTo_of_lt,
    s.preState.loadRegs_i _, s.preState.loadRegs_pc _⟩

/-- Settles O43: the three addresses are distinct, so each digit stands. -/
theorem storeDecimalResult : Obligations.StoreDecimalResult := by
  intro x s
  refine ⟨_, exec_ldBVx x s, fun a ha => ?_, fun a ha => ?_, fun a ha => ?_, rfl, rfl⟩
  · obtain rfl : a = s.preState.ea 0 := State.eq_ea ha
    rw [State.memRead_storeDigits_hundreds, hundreds_toNat]
  · obtain rfl : a = s.preState.ea 1 := State.eq_ea ha
    rw [State.memRead_storeDigits_tens, tens_toNat]
  · obtain rfl : a = s.preState.ea 2 := State.eq_ea ha
    rw [State.memRead_storeDigits_units, units_toNat]

/-- Settles O46: the store leaves `I`, so the load reads the addresses of the digits. -/
theorem decimalRoundTrip : Obligations.DecimalRoundTrip := by
  intro x s
  obtain ⟨t, hstore, hhundreds, htens, hunits, hi, -⟩ := storeDecimalResult x s
  obtain ⟨u, hload, hreg, -⟩ := loadRegistersResult 2 t
  have hdigit (k : RegIdx) (hk : k ≤ 2) : u.reg k = t.memRead (s.ea k.val) :=
    hreg k _ hk (hi ▸ s.ea_toNat k.val)
  refine ⟨t, hstore, u, hload, ?_, ?_, ?_⟩
  · rw [hdigit 0 (by decide)]
    exact hhundreds _ (s.ea_toNat 0)
  · rw [hdigit 1 (by decide)]
    exact htens _ (s.ea_toNat 1)
  · rw [hdigit 2 (by decide)]
    exact hunits _ (s.ea_toNat 2)

/-- Settles O57: each of these sets one field of the pre-state. -/
theorem indexTimerAndWaitFrame : Obligations.IndexTimerAndWaitFrame := by
  intro x nnn s
  have hpre := frame_preState s
  simp only [List.forall_mem_cons]
  exact ⟨⟨⟨_, rfl, hpre.setIndex _⟩, ⟨_, rfl, hpre.setIndex _⟩, ⟨_, rfl, hpre.setIndex _⟩, List.forall_mem_nil _⟩,
    ⟨_, rfl, hpre.setDelay _⟩, ⟨_, rfl, hpre.setSound _⟩, ⟨_, rfl, hpre.setMode _⟩⟩

/-- Settles O59: every byte stored and every register loaded is among those named. -/
theorem memoryFrame : Obligations.MemoryFrame := by
  intro x s
  have hpre := (frame_preState s).of_nothing
  refine ⟨⟨_, rfl, ?_⟩, ⟨_, rfl, ?_⟩, ⟨_, rfl, ?_⟩⟩
  · exact (((hpre _).memWrite (by simp) _).memWrite (by simp) _).memWrite (by simp) _
  · exact (hpre _).storeRegs fun _ => s.preState.ea_mem_map_range
  · exact (hpre _).loadRegs (List.Subset.refl _)

/-- Settles O42: a zero-extended address, a 16-bit sum, and a product that fits; the registers are those of the pre-state. -/
theorem indexResults : Obligations.IndexResults := fun nnn x s =>
  ⟨⟨_, rfl, zextAddr_toNat nnn, rfl, rfl, rfl⟩, ⟨_, rfl, add_zextByte_toNat s.i (s.reg x), rfl, rfl, rfl⟩,
    ⟨_, rfl, glyphAddress_toNat (s.reg x), rfl, rfl, rfl⟩⟩

end Sys2Proof.Machine
end

section
/-!
PROOFS. Display (`44_display.md`): the cells a draw toggles and its collision flag, over what one sprite does to a bitmap, and
what these instructions leave unchanged.
-/
namespace Sys2Proof.Machine

/-! ## Cells of the bitmap (R20, R163) -/

theorem Bitmap.ext_cell {fb gb : Bitmap} (h : ∀ py px, fb.cell py px = gb.cell py px) : fb = gb :=
  Vector.ext fun py hy => Vector.ext fun px hx => h ⟨py, hy⟩ ⟨px, hx⟩

/-- The cells under the bytes of a sprite are those of `SpriteCovers`. -/
theorem bytesCover_spriteBytes (s : State) (x y : RegIdx) (n : Nat) (py : Fin 32) (px : Fin 64) :
    BytesCover (s.reg x).toNat (s.reg y).toNat (s.spriteBytes n) py px ↔ SpriteCovers s x y n py px := by
  simp only [BytesCover, SpriteCovers, State.length_spriteBytes, column, row, Fin.ext_iff]
  refine exists_congr fun k => and_congr_right fun hk => exists_congr fun c => and_congr_right fun _ => ?_
  rw [s.getD_spriteBytes hk]
  exact and_congr_right fun _ => and_congr eq_comm eq_comm

/-! ## One draw (R163) -/

/-- The state after a draw that leaves the bitmap `fb`, with the collision `c`. -/
def State.afterDraw (s : State) (fb : Bitmap) (c : Bool) : State :=
  (s.preState.setBitmap fb).setReg flagReg (flagByte c)

/-- The flag is written last, so it stands whatever the operands are. -/
theorem State.afterDraw_flag (s : State) (fb : Bitmap) (c : Bool) : (s.afterDraw fb c).reg 15 = flagByte c :=
  State.reg_setReg_same _ flagReg _

/-- A draw leaves memory and `I`, so with the registers put back the sprite lies where it lay. -/
theorem spriteCovers_afterDraw (s : State) (fb : Bitmap) (c : Bool) (x y : RegIdx) (n : Nat) (py : Fin 32) (px : Fin 64) :
    SpriteCovers { s.afterDraw fb c with v := s.v } x y n py px ↔ SpriteCovers s x y n py px := Iff.rfl

/-- All that a draw of an encodable height does: the covered cells toggle, the others stay, and the flag says whether a covered
cell was set. -/
theorem exec_drwVxVyN (x y : RegIdx) {n : Nat} (s : State) (hn : n < 16) :
    ∃ fb c, exec (.drwVxVyN x y n) s = .next (s.afterDraw fb c) ∧
      (∀ py px, SpriteCovers s x y n py px → fb.cell py px = !s.fb.cell py px) ∧
      (∀ py px, ¬SpriteCovers s x y n py px → fb.cell py px = s.fb.cell py px) ∧
      (c = true ↔ ∃ py px, SpriteCovers s x y n py px ∧ s.fb.cell py px = true) := by
  have hlen : (s.spriteBytes n).length ≤ 32 := by
    rw [State.length_spriteBytes]
    omega
  obtain ⟨hcell, hflag⟩ := drawSprite_spec (s.spriteBytes n) s.fb (s.reg x).toNat (s.reg y).toNat hlen
  simp only [bytesCover_spriteBytes] at hcell hflag
  refine ⟨_, _, rfl, fun py px hcov => ?_, fun py px hcov => ?_, hflag⟩
  · obtain ⟨htoggled, -⟩ | ⟨-, hnot⟩ := hcell py px
    · exact htoggled
    · exact absurd hcov hnot
  · obtain ⟨-, hcov'⟩ | ⟨hkept, -⟩ := hcell py px
    · exact absurd hcov' hcov
    · exact hkept

/-! ## Frames (R86, R160) -/

theorem Frame.setBitmap {w : Written} {s t : State} (h : Frame w s t) (fb : Bitmap) :
    Frame { w with display := true } s (t.setBitmap fb) := by
  obtain ⟨hreg, hmem, hi, hdt, hst, -, hrest⟩ := h
  exact ⟨hreg, hmem, hi, hdt, hst, nofun, hrest⟩

/-! ## The statements -/

/-- Settles O48: the cells and the collision of `exec_drwVxVyN`, the collision as a flag. -/
theorem drawIsExclusiveOr : Obligations.DrawIsExclusiveOr := by
  intro x y n s hn
  obtain ⟨fb, c, hexec, htoggled, hkept, hflag⟩ := exec_drwVxVyN x y s hn
  refine ⟨_, hexec, htoggled, hkept, fun hset => ?_, fun hunset => ?_, rfl, rfl⟩
  · rw [State.afterDraw_flag, hflag.2 hset, flagByte_true]
  · rw [State.afterDraw_flag, Bool.eq_false_iff.2 (mt hflag.1 hunset), flagByte_false]

/-- Settles O49: the second draw covers the cells of the first, and a cell toggled twice is as it was. -/
theorem drawingTwiceRestores : Obligations.DrawingTwiceRestores := by
  intro x y n s hn
  obtain ⟨fb, c, hfirst, htoggled, hkept, -⟩ := exec_drwVxVyN x y s hn
  obtain ⟨gb, d, hsecond, htoggled', hkept', hflag⟩ := exec_drwVxVyN x y { s.afterDraw fb c with v := s.v } hn
  simp only [spriteCovers_afterDraw] at htoggled' hkept' hflag
  refine ⟨_, hfirst, _, hsecond, Bitmap.ext_cell fun py px => ?_, ?_⟩
  · by_cases hcov : SpriteCovers s x y n py px
    · calc gb.cell py px = !fb.cell py px := htoggled' py px hcov
        _ = s.fb.cell py px := by rw [htoggled py px hcov, Bool.not_not]
    · exact (hkept' py px hcov).trans (hkept py px hcov)
  · rw [State.afterDraw_flag, flagByte_eq_one]
    exact hflag

/-- Settles O58: a clear sets the bitmap of the pre-state, a draw sets `VF` too. -/
theorem displayFrame : Obligations.DisplayFrame := by
  intro x y n s
  have hbitmap (fb : Bitmap) := (frame_preState s).setBitmap fb
  exact ⟨⟨_, rfl, hbitmap _⟩, ⟨_, rfl, (hbitmap _).setReg flagReg _⟩⟩

/-- Settles O47: the bitmap of the pre-state is set to the clear one. -/
theorem clearDisplayResult : Obligations.ClearDisplayResult := fun _ => ⟨_, rfl, cell_clearBitmap, rfl, rfl, rfl⟩

end Sys2Proof.Machine
end

section
/-!
PROOFS. Key input (`45_input.md`): the pc after a key skip, over the key test, and the key wait with the key press that ends it.
-/
namespace Sys2Proof.Machine

/-- `SKNP` takes the skip that `SKP` does not take (R171, R172). -/
theorem State.skipIf_not_preState_pc (s : State) (c : Bool) :
    (s.preState.skipIf (!c)).pc = if c then s.pc + 2 else s.pc + 4 := by
  cases c <;> exact s.skipIf_preState_pc _

theorem keyByte_toNat (k : Key) : (keyByte k).toNat = k.val := Nat.mod_eq_of_lt (by omega)

/-! ## The statements -/

/-- Settles O50: the condition of the two skips is the key test, which finds a latched key or none (`State.pressed_iff`). -/
theorem keySkipResults : Obligations.KeySkipResults := by
  intro x s
  rw [← State.pressed_iff]
  refine ⟨fun h => ?_, fun h => ?_⟩
  · exact ⟨⟨_, rfl, (s.skipIf_preState_pc _).trans (if_pos h), s.preState.skipIf_v _⟩,
      ⟨_, rfl, (s.skipIf_not_preState_pc _).trans (if_pos h), s.preState.skipIf_v _⟩⟩
  · exact ⟨⟨_, rfl, (s.skipIf_preState_pc _).trans (if_neg h), s.preState.skipIf_v _⟩,
      ⟨_, rfl, (s.skipIf_not_preState_pc _).trans (if_neg h), s.preState.skipIf_v _⟩⟩

/-- Settles O51: the wait sets only the mode of the pre-state, and in that mode a key press ends it
(`State.keyDown_of_waiting`), storing the key number. -/
theorem keyWaitResult : Obligations.KeyWaitResult := by
  intro x k s
  refine ⟨_, rfl, rfl, rfl, rfl, ?_⟩
  rw [State.keyDown_of_waiting k (s.preState.setMode_mode (.waitingForKey x))]
  refine ⟨rfl, ?_, rfl⟩
  rw [State.setMode_reg, State.reg_setReg_same]
  exact keyByte_toNat k

end Sys2Proof.Machine
end

section
/-!
PROOFS. Timers (`46_timers.md`): the value read after the step's tick, the two values set, and the tone as the level of `ST`.
-/
namespace Sys2Proof.Machine

/-- The tone is the level of `ST` (R221). -/
theorem State.toneOn_iff (s : State) : s.toneOn = true ↔ s.st ≠ 0x00 := bne_iff_ne

/-! ## The statements -/

/-- Settles O52: the register is set to `DT` of the pre-state, whose tick is one countdown. -/
theorem readDelayResult : Obligations.ReadDelayResult := by
  intro x s
  have hread : (s.preState.setReg x s.preState.dt).reg x = countDown s.dt := s.preState.reg_setReg_same x _
  refine ⟨_, rfl, hread, ?_, rfl⟩
  rw [hread]
  exact countDown_toNat s.dt

/-- Settles O53: the timer is set to `Vx` after the tick, and the tone is read from the `ST` just set. -/
theorem setTimerResults : Obligations.SetTimerResults := fun x s =>
  ⟨⟨_, rfl, s.preState.setDelay_dt (s.reg x), rfl, rfl⟩,
    ⟨_, rfl, s.preState.setSound_st (s.reg x), (s.preState.setSound (s.reg x)).toneOn_iff, rfl, rfl⟩⟩

end Sys2Proof.Machine
end

section
/-!
PROOFS. Key events, faults and timers (`60_exceptions.md`) and the moves of the host (`70_reset_and_hazards.md`): what a key
press and a key release do to the state, what stays while the block is faulted or waits for a key, the tick of every
executed instruction, what `load` writes, and the jump to itself that ends a run.
-/
namespace Sys2Proof.Machine

/-! ## States that differ in the key latch only (R210, R211, R213) -/

/-- Nothing but the key latch differs. -/
def OnlyKeys (s t : State) : Prop := t = { s with keys := t.keys }

section
variable {s t : State}

theorem OnlyKeys.refl (s : State) : OnlyKeys s s := rfl

theorem OnlyKeys.mode_eq (h : OnlyKeys s t) : t.mode = s.mode := by
  unfold OnlyKeys at h
  rw [h]

theorem OnlyKeys.latchKey (h : OnlyKeys s t) (k : Key) (b : Bool) : OnlyKeys s (t.latchKey k b) :=
  congrArg (State.latchKey · k b) h

theorem State.waiting_eq_false (h : ∀ r, s.mode ≠ .waitingForKey r) : s.waiting = false := by
  unfold State.waiting
  cases hm : s.mode with
  | waitingForKey r => exact absurd hm (h r)
  | running | faulted => rfl

/-- A key press in mode Faulted sets its latch and nothing else (R213). -/
theorem OnlyKeys.keyDown_of_faulted (h : OnlyKeys s t) (hs : s.mode = .faulted) (k : Key) :
    OnlyKeys s (t.keyDown k) := by
  have hnot : t.waiting = false := State.waiting_eq_false (by simp [h.mode_eq, hs])
  rw [State.keyDown_of_not_waiting t k hnot]
  exact h.latchKey k true

end

/-! ## Runs outside mode Running (R91, R205, R213, R251) -/

section
variable {s : State} {p : Session}

/-- A run whose every move answers and keeps `P` answers and keeps `P` (R212). -/
theorem Session.moves_answer {P : Session → Prop} {ms : List HostMove}
    (hmove : ∀ m ∈ ms, ∀ q, P q → ∃ r, q.move m = .next r ∧ P r) (hp : P p) : ∃ q, p.moves ms = .next q ∧ P q := by
  induction ms generalizing p with
  | nil => exact ⟨p, rfl, hp⟩
  | cons m ms ih =>
    obtain ⟨hm, hms⟩ := List.forall_mem_cons.1 hmove
    obtain ⟨r, hr, hPr⟩ := hm p hp
    obtain ⟨q, hq, hPq⟩ := ih hms hPr
    refine ⟨q, ?_, hPq⟩
    rw [Session.moves, hr]
    exact hq

/-- An idle slot, as a move, only makes a later `load` too late (R91, log entry 4). -/
theorem Session.slot_of_not_running (hm : p.core.mode ≠ .running) : p.slot = .next { p with loadable := false } := by
  rw [Session.slot, step_of_not_running hm]

theorem Session.move_slot_onlyKeys (hs : s.mode ≠ .running) (h : OnlyKeys s p.core) :
    ∃ q, p.move .slot = .next q ∧ OnlyKeys s q.core :=
  ⟨_, Session.slot_of_not_running (h.mode_eq ▸ hs), h⟩

end

/-! ## The tick of an executed instruction (R85, R215) -/

/-- Each timer has counted down once, unless the instruction is the one that sets it. -/
theorem exec_timers {i : Instr} {s t : State} (hret : i = .ret → 0 < s.sp.val)
    (hcall : ∀ nnn, i = .call nnn → s.sp.val < 16) (h : exec i s = .next t) :
    ((∀ x, i ≠ .ldDtVx x) → t.dt = countDown s.dt) ∧ ((∀ x, i ≠ .ldStVx x) → t.st = countDown s.st) := by
  cases i with
  | ret =>
    have hpos : 0 < s.sp.val := hret rfl
    obtain ⟨hempty, -⟩ | ⟨w, u, hpop, he⟩ := execRet_cases s
    · omega
    · obtain ⟨-, -, -, hu⟩ := State.pop?_some hpop
      cases he.symm.trans h
      rw [hu]
      exact ⟨fun _ => rfl, fun _ => rfl⟩
  | call nnn =>
    have hroom : s.sp.val < 16 := hcall nnn rfl
    obtain ⟨hfull, -⟩ | ⟨u, hpush, he⟩ := execCall_cases nnn s
    · omega
    · obtain ⟨-, -, -, hu⟩ := State.push?_some hpush
      cases he.symm.trans h
      rw [hu]
      exact ⟨fun _ => rfl, fun _ => rfl⟩
  | ldDtVx x =>
    cases h
    exact ⟨fun hne => absurd rfl (hne x), fun _ => rfl⟩
  | ldStVx x =>
    cases h
    exact ⟨fun _ => rfl, fun hne => absurd rfl (hne x)⟩
  | seVxKk | sneVxKk | seVxVy | sneVxVy | skpVx | sknpVx =>
    cases h
    exact ⟨fun _ => s.preState.skipIf_dt _, fun _ => s.preState.skipIf_st _⟩
  | ldIndVx x =>
    cases h
    rw [State.storeRegs_keeps]
    exact ⟨fun _ => rfl, fun _ => rfl⟩
  | ldVxInd x =>
    cases h
    rw [State.loadRegs_keeps]
    exact ⟨fun _ => rfl, fun _ => rfl⟩
  -- The rest write no timer after the tick, and say so by computation.
  | _ =>
    cases h
    exact ⟨fun _ => rfl, fun _ => rfl⟩

/-! ## Load (R246, R252) -/

section
variable {p : Session} {bytes : List Byte}

theorem romFits_iff : romFits bytes = true ↔ bytes.length ≤ 3584 := decide_eq_true_iff

theorem Session.load_of_fits (hfits : bytes.length ≤ 3584) (hload : p.loadable = true) :
    p.load bytes = .next { p with core := p.core.loadBytes bytes } := by
  rw [Session.load, if_pos (romFits_iff.2 hfits), if_pos hload]

theorem Session.load_of_too_long (hlong : 3584 < bytes.length) : p.load bytes = .refused (.romTooLong bytes.length) := by
  rw [Session.load, if_neg (mt romFits_iff.1 hlong.not_ge)]

theorem Session.load_of_not_loadable (hfits : bytes.length ≤ 3584) (hload : p.loadable = false) :
    p.load bytes = .refused .loadNotAfterReset := by
  rw [Session.load, if_pos (romFits_iff.2 hfits), if_neg (by simp [hload])]

/-- A byte of the image is found at its place (R246). -/
theorem State.read_loadBytes_of_lt (s : State) {j : Nat} (hj : j < bytes.length) :
    (s.loadBytes bytes).mem.read (0x200 + j) = bytes.getD j 0x00 := by
  rw [State.loadBytes, Memory.read_writeBytes, if_pos (by omega), Nat.add_sub_cancel_left]

/-- Outside the image memory reads as before (R246). -/
theorem State.read_loadBytes_of_outside (s : State) {a : Nat} (ha : a < 0x200 ∨ 0x200 + bytes.length ≤ a) :
    (s.loadBytes bytes).mem.read a = s.mem.read a := by
  rw [State.loadBytes, Memory.read_writeBytes, if_neg (by omega)]

end

/-! ## The end of a run (R250) -/

/-- An address of the last fetch or below is its own low 12 bits. -/
theorem zextAddr_setWidth {w : Word} (hw : w.toNat ≤ 0x0FFE) : zextAddr (w.setWidth 12) = w := by
  unfold zextAddr
  bv_omega

/-- With both timers at 0 there is no tick to see, and a jump to the pc undoes its increment (R102, R215). -/
theorem State.preState_jump_self {s : State} (hdt : s.dt = 0x00) (hst : s.st = 0x00) : s.preState.jump s.pc = s := by
  have hdelay : countDown s.dt = s.dt := by rw [hdt, countDown_zero]
  have hsound : countDown s.st = s.st := by rw [hst, countDown_zero]
  calc
    s.preState.jump s.pc = { s with dt := countDown s.dt, st := countDown s.st } := rfl
    _ = s := by rw [hdelay, hsound]

/-! ## The statements -/

/-- Settles O20: one case per move, the slot by the invariant over one step. -/
theorem everyHostMoveKeepsTheInvariant : Obligations.EveryHostMoveKeepsTheInvariant := fun _ _ _ =>
  Session.move_keeps_inv

/-- Settles O12: in mode Faulted each slot is idle and each key event writes the latch alone; reset then answers the state
after reset. -/
theorem faultedUntilReset : Obligations.FaultedUntilReset := by
  intro ms p hfaulted hms
  have hrun : ∃ q, p.moves ms = .next q ∧ OnlyKeys p.core q.core := by
    refine Session.moves_answer (fun m hm q hkeys => ?_) (.refl p.core)
    obtain rfl | ⟨k, rfl⟩ | ⟨k, rfl⟩ := hms m hm
    · exact Session.move_slot_onlyKeys (by simp [hfaulted]) hkeys
    · exact ⟨_, rfl, hkeys.keyDown_of_faulted hfaulted k⟩
    · exact ⟨_, rfl, hkeys.latchKey k false⟩
  obtain ⟨q, hq, hcore⟩ := hrun
  exact ⟨q, hq, hcore, _, rfl, rfl, rfl⟩

/-- Settles O13: in mode WaitingForKey each slot is idle and each release writes the latch alone. -/
theorem waitsUntilKeyPress : Obligations.WaitsUntilKeyPress := by
  intro ms p r hwaiting hms
  refine Session.moves_answer (P := fun q => OnlyKeys p.core q.core) (fun m hm q hkeys => ?_) (.refl p.core)
  obtain rfl | ⟨k, rfl⟩ := hms m hm
  · exact Session.move_slot_onlyKeys (by simp [hwaiting]) hkeys
  · exact ⟨_, rfl, hkeys.latchKey k false⟩

/-- Settles O14: the latch is written in every mode, and only a wait has a second effect. -/
theorem keyPressLatchesAndResumes : Obligations.KeyPressLatchesAndResumes := by
  intro s k
  have hkeys (j : Key) : (s.keyDown k).keys.get j = if k = j then true else s.keys.get j := by
    rw [State.keyDown_keys, State.keys_latchKey]
  refine ⟨(hkeys k).trans (if_pos rfl), fun j hj => (hkeys j).trans (if_neg hj.symm), fun r hr => ?_, fun hn => ?_⟩
  · rw [State.keyDown_of_waiting k hr]
    refine ⟨rfl, ?_, fun j hj => ?_, rfl⟩
    · rw [State.setMode_reg, State.reg_setReg_same]
      exact keyByte_toNat k
    · rw [State.setMode_reg, State.reg_setReg_ne _ _ hj.symm, State.latchKey_reg]
  · rw [State.keyDown_of_not_waiting s k (State.waiting_eq_false hn)]
    rfl

/-- Settles O15: a release is one latch write. -/
theorem keyReleaseOnlyClearsItsLatch : Obligations.KeyReleaseOnlyClearsItsLatch := fun s k =>
  ⟨(s.keys_latchKey k k false).trans (if_pos rfl), fun j hj => (s.keys_latchKey k j false).trans (if_neg hj.symm), rfl⟩

/-- Settles O17: the three outcomes of `load`, and the two cases of a read after the image is written. -/
theorem loadWritesTheImage : Obligations.LoadWritesTheImage :=
  ⟨fun p _ hload hfits => ⟨_, Session.load_of_fits hfits hload, fun _ => p.core.read_loadBytes_of_lt,
      fun _ => p.core.read_loadBytes_of_outside, rfl⟩,
    fun _ _ => Session.load_of_too_long, fun _ _ hload hfits => Session.load_of_not_loadable hfits hload⟩

/-- Settles O22: one countdown is one subtraction in natural numbers. -/
theorem everyInstructionTicksOnce : Obligations.EveryInstructionTicksOnce := by
  intro i s t hret hcall h
  obtain ⟨hdt, hst⟩ := exec_timers hret hcall h
  exact ⟨fun hne => (congrArg BitVec.toNat (hdt hne)).trans (countDown_toNat s.dt),
    fun hne => (congrArg BitVec.toNat (hst hne)).trans (countDown_toNat s.st)⟩

/-- Settles O26: the word at the pc decodes to the jump it encodes, whose target is the pc. -/
theorem endOfRunIsAFixedPoint : Obligations.EndOfRunIsAFixedPoint := by
  rintro s ⟨hm, hdt, hst, hpc, hword⟩
  have hdecode : decodeWord s.fetchWord = .instr (.jp (s.pc.setWidth 12)) := by
    rw [hword]
    exact decodeWord_encode rfl
  have hexec : exec (.jp (s.pc.setWidth 12)) s = .next (s.preState.jump (zextAddr (s.pc.setWidth 12))) := rfl
  rw [step_of_instr hm hpc hdecode, hexec, zextAddr_setWidth hpc, State.preState_jump_self hdt hst]

end Sys2Proof.Machine
end
